-- ==== Sys2Proof/Word.lean ====
section
/-! DEFINITION. The value widths of the engine (00_scope.md rule R9), the eight register indices (20_memory.md
rule R37) and the two encoded formats (30_encoding.md rule R52). -/

namespace Sys2Proof

/-- A byte of a block or key as the host holds it (R41). -/
abbrev Byte := BitVec 8
/-- REG_W, BLOCK_W, KEY_W: a host register, a block, a raw key (R9). -/
abbrev Word := BitVec 64
/-- HALF_W: one half of the block state, the source's Half32 (R9, R29). -/
abbrev Half := BitVec 32
/-- CD_W: one half of the key-schedule state (R9, R30). -/
abbrev KeyHalf := BitVec 28
/-- SUBKEY_W: one round key, the source's RoundKey48 (R9, R31). -/
abbrev RoundKey := BitVec 48
/-- A host transaction word, format TXN (R53). -/
abbrev TxnWord := BitVec 68
/-- The source's RoundKeySet: sixteen round keys. Entry K[i] of the spec (1..16) stands at index i - 1 (R31). -/
abbrev RoundKeySet := Vector RoundKey 16

/-- The eight register indices of the host register space, 0 to 7 in this order (R37); `r5`, `r6`, `r7` are the
unmapped ones. -/
inductive RegIndex where
  | key | din | dout | cmd | status | r5 | r6 | r7
deriving DecidableEq, Repr

/-- A word of one of the two formats "the hardware decodes" (R52): a 68-bit host transaction, or a 64-bit command
value, which is the DATA of a write transaction to register index 3. -/
inductive CodeWord where
  /-- Format TXN (R53). -/
  | txn (w : TxnWord)
  /-- Format CMD (R55): the DATA of a `WR CMD` transaction. -/
  | cmd (v : Word)
deriving DecidableEq, Repr

end Sys2Proof
end

