-- ==== Sys2Proof/Machine/Permutation.lean ====
section
/-! DEFINITION. The permutation primitive, exclusive-or, and the tables of the block path (40_permutation.md). -/

namespace Sys2Proof.Machine

/-- A permutation table from an N-bit value to an M-bit value: M entries, each a DES position 1..N of the input. The two
proofs are the source's `InvalidLength` check, made once for each table ("a model over width-typed values checks by
typing", R123; R61). -/
structure PermTable (n m : Nat) where
  entries : List Nat
  length_eq : entries.length = m
  inRange : ∀ p ∈ entries, 1 ≤ p ∧ p ≤ n

/-- T[j], j = 1..M. -/
def PermTable.entry {n m : Nat} (t : PermTable n m) (j : Nat) : Nat := t.entries.getD (j - 1) 0

/-- `pos_N(v, p) = v[N-p]`: "DES position 1 is the most significant bit" (R11, R40). -/
def desPos {n : Nat} (v : BitVec n) (p : Nat) : Bool := v.getLsbD (n - p)

/-- The m-bit value whose DES position j is `f j`, j = 1..m (R11). -/
def ofPositions : (m : Nat) → (Nat → Bool) → BitVec m
  | 0, _ => 0#0
  | m + 1, f => (ofPositions m f).concat (f (m + 1))

/-- `permute(v, N, T)`: "output DES position j = input DES position T[j]" (R61). Pure (R62). -/
def permute {n m : Nat} (v : BitVec n) (t : PermTable n m) : BitVec m := ofPositions m fun j => desPos v (t.entry j)

/-- `xor_bits(a, b)` of two values of one width; the source's `LengthMismatch` check is discharged "by typing" (R63). -/
def xorBits {w : Nat} (a b : BitVec w) : BitVec w := a ^^^ b

/-- IP, the initial permutation, 64 to 64 bits (R64). -/
def tableIP : PermTable 64 64 where
  entries :=
    [ 58, 50, 42, 34, 26, 18, 10,  2,
      60, 52, 44, 36, 28, 20, 12,  4,
      62, 54, 46, 38, 30, 22, 14,  6,
      64, 56, 48, 40, 32, 24, 16,  8,
      57, 49, 41, 33, 25, 17,  9,  1,
      59, 51, 43, 35, 27, 19, 11,  3,
      61, 53, 45, 37, 29, 21, 13,  5,
      63, 55, 47, 39, 31, 23, 15,  7 ]
  length_eq := by decide
  inRange := by decide

/-- FP, the final permutation, 64 to 64 bits (R65). -/
def tableFP : PermTable 64 64 where
  entries :=
    [ 40,  8, 48, 16, 56, 24, 64, 32,
      39,  7, 47, 15, 55, 23, 63, 31,
      38,  6, 46, 14, 54, 22, 62, 30,
      37,  5, 45, 13, 53, 21, 61, 29,
      36,  4, 44, 12, 52, 20, 60, 28,
      35,  3, 43, 11, 51, 19, 59, 27,
      34,  2, 42, 10, 50, 18, 58, 26,
      33,  1, 41,  9, 49, 17, 57, 25 ]
  length_eq := by decide
  inRange := by decide

/-- E, the expansion, 32 to 48 bits (R67). -/
def tableE : PermTable 32 48 where
  entries :=
    [ 32,  1,  2,  3,  4,  5,
       4,  5,  6,  7,  8,  9,
       8,  9, 10, 11, 12, 13,
      12, 13, 14, 15, 16, 17,
      16, 17, 18, 19, 20, 21,
      20, 21, 22, 23, 24, 25,
      24, 25, 26, 27, 28, 29,
      28, 29, 30, 31, 32,  1 ]
  length_eq := by decide
  inRange := by decide

/-- P, the permutation at the end of the round function, 32 to 32 bits (R68). -/
def tableP : PermTable 32 32 where
  entries :=
    [ 16,  7, 20, 21, 29, 12, 28, 17,
       1, 15, 23, 26,  5, 18, 31, 10,
       2,  8, 24, 14, 32, 27,  3,  9,
      19, 13, 30,  6, 22, 11,  4, 25 ]
  length_eq := by decide
  inRange := by decide

end Sys2Proof.Machine
end

