-- ==== Sys2Proof/Machine/Sbox.lean ====
section
/-! DEFINITION. The S-box substitution array (42_sbox.md): eight fixed tables, one lookup, and the substitution of a
48-bit value. -/

namespace Sys2Proof.Machine

/-- "4 rows (row 0..3, top to bottom) by 16 columns (column 0..15, left to right)" of 4-bit entries (42_sbox.md section
1). -/
abbrev SboxTable := Vector (Vector (BitVec 4) 16) 4

/-- S1, the source's `SBOXES[0]` (R80). -/
def sbox1 : SboxTable :=
    #v[ #v[14,  4, 13,  1,  2, 15, 11,  8,  3, 10,  6, 12,  5,  9,  0,  7],
      #v[ 0, 15,  7,  4, 14,  2, 13,  1, 10,  6, 12, 11,  9,  5,  3,  8],
      #v[ 4,  1, 14,  8, 13,  6,  2, 11, 15, 12,  9,  7,  3, 10,  5,  0],
      #v[15, 12,  8,  2,  4,  9,  1,  7,  5, 11,  3, 14, 10,  0,  6, 13] ]

/-- S2, the source's `SBOXES[1]` (R81). -/
def sbox2 : SboxTable :=
    #v[ #v[15,  1,  8, 14,  6, 11,  3,  4,  9,  7,  2, 13, 12,  0,  5, 10],
      #v[ 3, 13,  4,  7, 15,  2,  8, 14, 12,  0,  1, 10,  6,  9, 11,  5],
      #v[ 0, 14,  7, 11, 10,  4, 13,  1,  5,  8, 12,  6,  9,  3,  2, 15],
      #v[13,  8, 10,  1,  3, 15,  4,  2, 11,  6,  7, 12,  0,  5, 14,  9] ]

/-- S3, the source's `SBOXES[2]` (R82). -/
def sbox3 : SboxTable :=
    #v[ #v[10,  0,  9, 14,  6,  3, 15,  5,  1, 13, 12,  7, 11,  4,  2,  8],
      #v[13,  7,  0,  9,  3,  4,  6, 10,  2,  8,  5, 14, 12, 11, 15,  1],
      #v[13,  6,  4,  9,  8, 15,  3,  0, 11,  1,  2, 12,  5, 10, 14,  7],
      #v[ 1, 10, 13,  0,  6,  9,  8,  7,  4, 15, 14,  3, 11,  5,  2, 12] ]

/-- S4, the source's `SBOXES[3]` (R83). -/
def sbox4 : SboxTable :=
    #v[ #v[ 7, 13, 14,  3,  0,  6,  9, 10,  1,  2,  8,  5, 11, 12,  4, 15],
      #v[13,  8, 11,  5,  6, 15,  0,  3,  4,  7,  2, 12,  1, 10, 14,  9],
      #v[10,  6,  9,  0, 12, 11,  7, 13, 15,  1,  3, 14,  5,  2,  8,  4],
      #v[ 3, 15,  0,  6, 10,  1, 13,  8,  9,  4,  5, 11, 12,  7,  2, 14] ]

/-- S5, the source's `SBOXES[4]` (R84). -/
def sbox5 : SboxTable :=
    #v[ #v[ 2, 12,  4,  1,  7, 10, 11,  6,  8,  5,  3, 15, 13,  0, 14,  9],
      #v[14, 11,  2, 12,  4,  7, 13,  1,  5,  0, 15, 10,  3,  9,  8,  6],
      #v[ 4,  2,  1, 11, 10, 13,  7,  8, 15,  9, 12,  5,  6,  3,  0, 14],
      #v[11,  8, 12,  7,  1, 14,  2, 13,  6, 15,  0,  9, 10,  4,  5,  3] ]

/-- S6, the source's `SBOXES[5]` (R85). -/
def sbox6 : SboxTable :=
    #v[ #v[12,  1, 10, 15,  9,  2,  6,  8,  0, 13,  3,  4, 14,  7,  5, 11],
      #v[10, 15,  4,  2,  7, 12,  9,  5,  6,  1, 13, 14,  0, 11,  3,  8],
      #v[ 9, 14, 15,  5,  2,  8, 12,  3,  7,  0,  4, 10,  1, 13, 11,  6],
      #v[ 4,  3,  2, 12,  9,  5, 15, 10, 11, 14,  1,  7,  6,  0,  8, 13] ]

/-- S7, the source's `SBOXES[6]` (R86). -/
def sbox7 : SboxTable :=
    #v[ #v[ 4, 11,  2, 14, 15,  0,  8, 13,  3, 12,  9,  7,  5, 10,  6,  1],
      #v[13,  0, 11,  7,  4,  9,  1, 10, 14,  3,  5, 12,  2, 15,  8,  6],
      #v[ 1,  4, 11, 13, 12,  3,  7, 14, 10, 15,  6,  8,  0,  5,  9,  2],
      #v[ 6, 11, 13,  8,  1,  4, 10,  7,  9,  5,  0, 15, 14,  2,  3, 12] ]

/-- S8, the source's `SBOXES[7]` (R87). -/
def sbox8 : SboxTable :=
    #v[ #v[13,  2,  8,  4,  6, 15, 11,  1, 10,  9,  3, 14,  5,  0, 12,  7],
      #v[ 1, 15, 13,  8, 10,  3,  7,  4, 12,  5,  6, 11,  0, 14,  9,  2],
      #v[ 7, 11,  4,  1,  9, 12, 14,  2,  0,  6, 10, 13, 15,  3,  5,  8],
      #v[ 2,  1, 14,  7,  4, 10,  8, 13, 15, 12,  9,  0,  3,  5,  6, 11] ]

/-- S1 .. S8; S(j+1) stands at index j, as the source's `SBOXES[j]`. -/
def sboxes : Vector SboxTable 8 := #v[sbox1, sbox2, sbox3, sbox4, sbox5, sbox6, sbox7, sbox8]

/-- The row of a 6-bit input, `2*x[5] + x[0]` (R88). -/
def sboxRow (x : BitVec 6) : BitVec 2 := BitVec.ofBool (x.getLsbD 5) ++ BitVec.ofBool (x.getLsbD 0)

/-- The column of a 6-bit input, `x[4:1]` (R88). -/
def sboxCol (x : BitVec 6) : BitVec 4 := x.extractLsb' 1 4

/-- `S_n(x)`, one lookup, for n = `j.val + 1` (R88). -/
def sboxLookup (j : Fin 8) (x : BitVec 6) : BitVec 4 :=
  (sboxes[j][(sboxRow x).toNat]'(sboxRow x).isLt)[(sboxCol x).toNat]'(sboxCol x).isLt

/-- Chunk j of a 48-bit value, `x[47-6j : 42-6j]`, j = 0..7 (R89). -/
def sboxChunk (x : BitVec 48) (j : Fin 8) : BitVec 6 := x.extractLsb' (42 - 6 * j.val) 6

/-- `sbox_substitute(x)`: chunk j goes to S(j+1), and the eight outputs are concatenated "in chunk order" (R89). -/
def sboxSubstitute (x : BitVec 48) : Half :=
  sboxLookup 0 (sboxChunk x 0) ++ sboxLookup 1 (sboxChunk x 1) ++ sboxLookup 2 (sboxChunk x 2) ++
  sboxLookup 3 (sboxChunk x 3) ++ sboxLookup 4 (sboxChunk x 4) ++ sboxLookup 5 (sboxChunk x 5) ++
  sboxLookup 6 (sboxChunk x 6) ++ sboxLookup 7 (sboxChunk x 7)

end Sys2Proof.Machine
end

