-- ==== Sys2Proof/Machine/Feistel.lean ====
section
/-! DEFINITION. The Feistel round function f (43_feistel.md). -/

namespace Sys2Proof.Machine

/-- `f(r, k)`: expand r by E, exclusive-or with the subkey, substitute, permute by P (R92). -/
def feistel (r : Half) (k : RoundKey) : Half :=
  let e := permute r tableE
  let x := xorBits e k
  let s := sboxSubstitute x
  permute s tableP

end Sys2Proof.Machine
end

