-- ==== Sys2Proof/Syntax.lean ====
section
/-! DEFINITION. The instructions: one constructor per row of spec/opcode_table.json, 16 transactions (30_encoding.md
rule R54) and 4 commands (rule R56). -/

namespace Sys2Proof

/-- One row of the opcode table with its operand. A transaction keeps its 64-bit DATA field: the value of a write;
of a read the field is "ignored (written as 0 by the assembler)" (R53). -/
inductive Instr where
  | wrKey (data : Word)
  | wrDin (data : Word)
  | wrDout (data : Word)
  | wrCmd (data : Word)
  | wrStatus (data : Word)
  | wrR5 (data : Word)
  | wrR6 (data : Word)
  | wrR7 (data : Word)
  | rdKey (data : Word)
  | rdDin (data : Word)
  | rdDout (data : Word)
  | rdCmd (data : Word)
  | rdStatus (data : Word)
  | rdR5 (data : Word)
  | rdR6 (data : Word)
  | rdR7 (data : Word)
  | nop
  | keysched
  | encrypt
  | decrypt
deriving DecidableEq, Repr

end Sys2Proof
end

