-- ==== Sys2Proof/WellFormed.lean ====
section
/-! DEFINITION. Which instruction terms are well-formed, that is, written as the spec's assembler writes them. The
widths of all fields are carried by their types, so the one check left is the ignored DATA of a read. -/

namespace Sys2Proof

/-- A read's DATA is "written as 0 by the assembler" (R53, R59); every other term is as the table has it. The
hardware ignores that field, so it runs a read that is not well-formed just the same (log entry 6). -/
def Instr.wf : Instr → Bool
  | .wrKey _ | .wrDin _ | .wrDout _ | .wrCmd _ | .wrStatus _ | .wrR5 _ | .wrR6 _ | .wrR7 _ => true
  | .rdKey data | .rdDin data | .rdDout data | .rdCmd data
  | .rdStatus data | .rdR5 data | .rdR6 data | .rdR7 data => data == 0#64
  | .nop | .keysched | .encrypt | .decrypt => true

end Sys2Proof
end

