-- ==== Sys2Proof/Decode.lean ====
section
/-! DEFINITION. The decoder of the two formats (30_encoding.md rules R53 to R57) and, after it, the encoder and the
opcode table, written from the same encoding tables. Decoding is total: a transaction word always is one row (R54); a
command value is one of four rows or is rejected by name (R57). -/

namespace Sys2Proof

/-- Why a word is no row of the table. -/
inductive DecodeError where
  /-- A command value other than the four of R56. The hardware has a meaning for the write that carries it: the error
  ILLEGAL_COMMAND (R57). -/
  | reservedCommand (v : Word)
deriving DecidableEq, Repr

/-- The register index a 3-bit REG field names (R37, R53). -/
def RegIndex.ofBits (b : BitVec 3) : RegIndex :=
  match (b.toFin : Fin 8) with
  | 0 => .key
  | 1 => .din
  | 2 => .dout
  | 3 => .cmd
  | 4 => .status
  | 5 => .r5
  | 6 => .r6
  | 7 => .r7

/-- TXN field W, bit 67: 1 = write, 0 = read (R53). -/
def txnW (w : TxnWord) : Bool := w.getLsbD 67

/-- TXN field REG, bits 66:64 (R53). -/
def txnReg (w : TxnWord) : RegIndex := .ofBits (w.extractLsb' 64 3)

/-- TXN field DATA, bits 63:0, taken "exactly as written" (R53, R58). -/
def txnData (w : TxnWord) : Word := w.extractLsb' 0 64

/-- The write transaction of a register index (R54, the rows with W = 1). -/
def writeInstr (r : RegIndex) (data : Word) : Instr :=
  match r with
  | .key => .wrKey data
  | .din => .wrDin data
  | .dout => .wrDout data
  | .cmd => .wrCmd data
  | .status => .wrStatus data
  | .r5 => .wrR5 data
  | .r6 => .wrR6 data
  | .r7 => .wrR7 data

/-- The read transaction of a register index (R54, the rows with W = 0). -/
def readInstr (r : RegIndex) (data : Word) : Instr :=
  match r with
  | .key => .rdKey data
  | .din => .rdDin data
  | .dout => .rdDout data
  | .cmd => .rdCmd data
  | .status => .rdStatus data
  | .r5 => .rdR5 data
  | .r6 => .rdR6 data
  | .r7 => .rdR7 data

/-- "Decoding of a TXN word is total: every one of the 16 values of (W, REG) is one row" (R54). -/
def decodeTxn (w : TxnWord) : Instr :=
  if txnW w then writeInstr (txnReg w) (txnData w) else readInstr (txnReg w) (txnData w)

/-- "A CMD value selects a command only if it equals one of these four values exactly" (R56); every other value is
reserved (R57). -/
def decodeCmd (v : Word) : Except DecodeError Instr :=
  if v = 0x0000000000000000#64 then .ok .nop
  else if v = 0x0000000000000001#64 then .ok .keysched
  else if v = 0x0000000000000002#64 then .ok .encrypt
  else if v = 0x0000000000000003#64 then .ok .decrypt
  else .error (.reservedCommand v)

/-- The decoder of both formats (R52: "two formats and no other"). -/
def decode : CodeWord → Except DecodeError Instr
  | .txn w => .ok (decodeTxn w)
  | .cmd v => decodeCmd v

/-- The word of `nbits` bits that the opcode table numbers, bit 0 lowest: the table's CMD rows have 64 bits and its TXN
rows 68 (72 in whole bytes), so the length tells the format. A number with a bit above the format's width is no word of
it. -/
def codeWordOfBits (nbits w : Nat) : Option CodeWord :=
  if nbits ≤ 64 then
    if w < 2 ^ 64 then some (.cmd (BitVec.ofNat 64 w)) else none
  else
    if w < 2 ^ 68 then some (.txn (BitVec.ofNat 68 w)) else none

/-- The instruction the decoder reads from a word of the opcode table. -/
def decodeTableWord (nbits w : Nat) : Option Instr :=
  match codeWordOfBits nbits w with
  | none => none
  | some c => (decode c).toOption

/-! ## The encoder -/

/-- A transaction word from its fields, W || REG || DATA (R53): its first hexadecimal digit is 8*W + REG. -/
def encodeTxn (digit : BitVec 4) (data : Word) : TxnWord := digit ++ data

/-- The word of an instruction, in the format its table row has (R53, R56). -/
def encode : Instr → CodeWord
  | .wrKey data => .txn (encodeTxn 0x8#4 data)
  | .wrDin data => .txn (encodeTxn 0x9#4 data)
  | .wrDout data => .txn (encodeTxn 0xA#4 data)
  | .wrCmd data => .txn (encodeTxn 0xB#4 data)
  | .wrStatus data => .txn (encodeTxn 0xC#4 data)
  | .wrR5 data => .txn (encodeTxn 0xD#4 data)
  | .wrR6 data => .txn (encodeTxn 0xE#4 data)
  | .wrR7 data => .txn (encodeTxn 0xF#4 data)
  | .rdKey data => .txn (encodeTxn 0x0#4 data)
  | .rdDin data => .txn (encodeTxn 0x1#4 data)
  | .rdDout data => .txn (encodeTxn 0x2#4 data)
  | .rdCmd data => .txn (encodeTxn 0x3#4 data)
  | .rdStatus data => .txn (encodeTxn 0x4#4 data)
  | .rdR5 data => .txn (encodeTxn 0x5#4 data)
  | .rdR6 data => .txn (encodeTxn 0x6#4 data)
  | .rdR7 data => .txn (encodeTxn 0x7#4 data)
  | .nop => .cmd 0x0000000000000000#64
  | .keysched => .cmd 0x0000000000000001#64
  | .encrypt => .cmd 0x0000000000000002#64
  | .decrypt => .cmd 0x0000000000000003#64

/-- The transaction that carries a word: a command value `v` is issued by `WR CMD, v`, TXN word `0xB` followed by `v`
(R52, R109; R60 expands the command mnemonics this way). -/
def CodeWord.toTxn : CodeWord → TxnWord
  | .txn w => w
  | .cmd v => encodeTxn 0xB#4 v

/-! ## The opcode table -/

/-- One row of spec/opcode_table.json: the words `c` of its format whose bits under `mask` equal `pattern`. -/
inductive OpcodeRow where
  | txn (pattern mask : TxnWord)
  | cmd (pattern mask : Word)
deriving DecidableEq, Repr

/-- A word fits a row: same format, and equal to the pattern under the mask. -/
def OpcodeRow.fits : OpcodeRow → CodeWord → Bool
  | .txn pattern mask, .txn w => w &&& mask == pattern
  | .cmd pattern mask, .cmd v => v &&& mask == pattern
  | .txn _ _, .cmd _ => false
  | .cmd _ _, .txn _ => false

/-- A TXN row: its first hexadecimal digit is fixed, its DATA free (R54). -/
def txnRow (digit : BitVec 4) : OpcodeRow := .txn (encodeTxn digit 0#64) (encodeTxn 0xF#4 0#64)

/-- A CMD row: all 64 bits fixed (R56). -/
def cmdRow (v : Word) : OpcodeRow := .cmd v 0xFFFFFFFFFFFFFFFF#64

/-- The row of each instruction. -/
def opcodeRow : Instr → OpcodeRow
  | .wrKey _ => txnRow 0x8#4
  | .wrDin _ => txnRow 0x9#4
  | .wrDout _ => txnRow 0xA#4
  | .wrCmd _ => txnRow 0xB#4
  | .wrStatus _ => txnRow 0xC#4
  | .wrR5 _ => txnRow 0xD#4
  | .wrR6 _ => txnRow 0xE#4
  | .wrR7 _ => txnRow 0xF#4
  | .rdKey _ => txnRow 0x0#4
  | .rdDin _ => txnRow 0x1#4
  | .rdDout _ => txnRow 0x2#4
  | .rdCmd _ => txnRow 0x3#4
  | .rdStatus _ => txnRow 0x4#4
  | .rdR5 _ => txnRow 0x5#4
  | .rdR6 _ => txnRow 0x6#4
  | .rdR7 _ => txnRow 0x7#4
  | .nop => cmdRow 0#64
  | .keysched => cmdRow 1#64
  | .encrypt => cmdRow 2#64
  | .decrypt => cmdRow 3#64

end Sys2Proof
end

