-- ==== Sys2Proof/Machine/State.lean ====
section
/-! DEFINITION. The state of the machine as plain data (10_state.md), the reasons a step can stop, and the state after
reset (rule R35). `Engine` is the hardware's architectural state, field for field; `State` adds the two pieces of the
environment that a deterministic step needs as data: the events still to come and the values the host has read. -/

namespace Sys2Proof.Machine

/-- PHASE, 3 bits: the eight codes of R28. Codes 6 and 7 are reserved and "never reached". -/
inductive Phase where
  | idle | ksInitial | ksRound | blkInitial | blkRound | blkFinal | reserved6 | reserved7
deriving DecidableEq, Repr

/-- The error kinds that have a code in ERRCODE (R122). The last four are the source's length errors, "never raised". -/
inductive ErrorKind where
  | illegalCommand | noKey | busyViolation | illegalAccess
  | invalidBlockLength | invalidKeyLength | lengthMismatch | invalidLength
deriving DecidableEq, Repr

/-- The architectural state of one engine: "exactly these fields with these widths", 1096 bits (R33). -/
@[ext] structure Engine where
  /-- KEY, 64 bits: the raw key as the host wrote it (R18). -/
  key : Word
  /-- DIN, 64 bits: the input block of the next block operation (R19). -/
  din : Word
  /-- DOUT, 64 bits: the output block of the last completed block operation (R20). -/
  dout : Word
  /-- DONE, 1 bit (R24). -/
  done : Bool
  /-- KV, 1 bit: RK holds the round keys of the current KEY (R25). -/
  kv : Bool
  /-- ERR, 1 bit: the sticky error flag (R26). -/
  err : Bool
  /-- ERRCODE, 4 bits: the code of the first error since reset (R26, R122). -/
  errcode : BitVec 4
  /-- DIR, 1 bit: `false` (0) encryption, `true` (1) decryption (R27). -/
  dir : Bool
  /-- PHASE, 3 bits (R28). -/
  phase : Phase
  /-- ROUND, 5 bits (R28). -/
  round : BitVec 5
  /-- L, 32 bits: the left half of the block state (R29). -/
  l : Half
  /-- R, 32 bits: the right half of the block state (R29). -/
  r : Half
  /-- C, 28 bits: the left half of the key-schedule state (R30). -/
  c : KeyHalf
  /-- D, 28 bits: the right half of the key-schedule state (R30). -/
  d : KeyHalf
  /-- RK[1..16], 48 bits each; RK[i] stands at index i - 1 (R31). -/
  rk : RoundKeySet
deriving DecidableEq, Repr

/-- An access as the platform makes it (R38, R39): a read or a write of `size` bytes at byte address `addr`. `data` is
the value of an 8-byte write; it means nothing for any other access. -/
structure Access where
  write : Bool
  addr : Nat
  size : Nat
  data : Word
deriving DecidableEq, Repr

/-- One event of the total order of R45: what may happen next to the engine. -/
inductive Event where
  /-- A host transaction, given by its word: a TXN word, or the CMD value of a `WR CMD` (R17, R52). -/
  | word (w : CodeWord)
  /-- A platform access, which is a host transaction only if R39 says so. -/
  | access (a : Access)
  /-- One atomic engine step (R17). -/
  | engineStep
  /-- The external RESET event (R17, R141). -/
  | reset
deriving DecidableEq, Repr

/-- The machine: the engine's state, and the environment's part as data.
`agenda` is the order in which host transactions, engine steps and RESET events are going to happen, the next one
first. "The model leaves that number open (it is a relation over every interleaving)" (R45): a statement about every
state is a statement about every interleaving (log entry 1).
`reads` is what the host has observed, the values its reads returned, the oldest first (R152; log entry 3). -/
structure State where
  engine : Engine
  agenda : List Event
  reads : List Word
deriving DecidableEq, Repr

/-- Why the machine stops. -/
inductive Fault where
  /-- Raised by `engineTurn`: the engine is not IDLE and has no engine step, because its state is outside R34 (a
  reserved PHASE, a ROUND that does not belong to PHASE, KV or an error code that does not). The spec: "a state outside
  them has no engine step (the model is stuck, which errs toward unprovable)". Safe; no state reached from reset raises
  it (log entry 4). -/
  | noEngineStep
deriving DecidableEq, Repr

/-- Why the model gives a step no meaning. -/
inductive Refusal where
  /-- An instruction without a meaning yet; no arm of `exec` is left that uses it. Safe. -/
  | notModelled (mnemonic : String)
  /-- Raised by the fetch of a platform access that is not a whole, aligned 64-bit access to the register block: "is not
  a transaction of this hardware and a model refuses it" (R39). Safe. -/
  | notATransaction
  /-- Raised by `Platform.step` for an instance number the platform does not have (R138). Safe. -/
  | noSuchInstance
deriving DecidableEq, Repr

/-- What a step answers. -/
abbrev Result := Host.Outcome State Fault Refusal

/-- The reset value of every piece of engine state (R35). -/
def Engine.reset : Engine where
  key := 0x0000000000000000#64
  din := 0x0000000000000000#64
  dout := 0x0000000000000000#64
  done := false
  kv := false
  err := false
  errcode := 0#4
  dir := false
  phase := .idle
  round := 0#5
  l := 0x00000000#32
  r := 0x00000000#32
  c := 0x0000000#28
  d := 0x0000000#28
  rk := Vector.replicate 16 0x000000000000#48

/-- The machine right after reset: the engine as R35 says; no event is announced and the host has read nothing yet (log
entry 2). -/
def State.reset : State where
  engine := Engine.reset
  agenda := []
  reads := []

end Sys2Proof.Machine
end

