-- ==== Sys2Proof/Machine/Flags.lean ====
section
/-! DEFINITION. The flags and the STATUS word (10_state.md rules R22, R23, R28), the error codes (60_exceptions.md rule
R122), and the well-formedness predicate of an engine state (10_state.md rule R34). -/

namespace Sys2Proof.Machine

/-- The PHASE code of R28. -/
def Phase.code : Phase → BitVec 3
  | .idle => 0#3
  | .ksInitial => 1#3
  | .ksRound => 2#3
  | .blkInitial => 3#3
  | .blkRound => 4#3
  | .blkFinal => 5#3
  | .reserved6 => 6#3
  | .reserved7 => 7#3

/-- The ERRCODE value of an error kind (R122). Code 0 is NONE; codes 9 to 15 are reserved. -/
def ErrorKind.code : ErrorKind → BitVec 4
  | .illegalCommand => 1#4
  | .noKey => 2#4
  | .busyViolation => 3#4
  | .illegalAccess => 4#4
  | .invalidBlockLength => 5#4
  | .invalidKeyLength => 6#4
  | .lengthMismatch => 7#4
  | .invalidLength => 8#4

/-- BUSY "is not stored: it is 1 exactly when PHASE is not IDLE" (R23). -/
def Engine.busy (e : Engine) : Bool := e.phase != .idle

/-- The STATUS value, "composed from the state fields" at the moment of the read:
`zext_64(ROUND || PHASE || DIR || ERRCODE || ERR || KV || DONE || BUSY)` (R22). -/
def Engine.status (e : Engine) : Word :=
  (e.round ++ e.phase.code ++ BitVec.ofBool e.dir ++ e.errcode ++ BitVec.ofBool e.err ++ BitVec.ofBool e.kv ++
    BitVec.ofBool e.done ++ BitVec.ofBool e.busy).setWidth 64

/-- ROUND is one of 1..16. -/
def roundInRange (round : BitVec 5) : Bool := 1 ≤ round.toNat && round.toNat ≤ 16

/-- The clauses of R34 that tie ROUND and KV to PHASE. -/
def Engine.sequencerLegal (e : Engine) : Bool :=
  match e.phase with
  | .idle => e.round == 0#5
  | .ksInitial => e.round == 0#5 && !e.kv
  | .ksRound => roundInRange e.round && !e.kv
  | .blkInitial => e.round == 0#5 && e.kv
  | .blkRound => roundInRange e.round && e.kv
  | .blkFinal => e.round == 16#5 && e.kv
  | .reserved6 | .reserved7 => false

/-- The clauses of R34 about the error record: "ERR = 0 implies ERRCODE = 0; ERRCODE is one of 0..4". -/
def Engine.errorLegal (e : Engine) : Bool := (e.err || e.errcode == 0#4) && decide (e.errcode.toNat ≤ 4)

/-- The well-formedness predicate of R34. -/
def Engine.legal (e : Engine) : Bool := e.sequencerLegal && e.errorLegal

end Sys2Proof.Machine
end

