-- ==== Sys2Proof/Config.lean ====
section
/-! DEFINITION. What a platform fixes and the spec leaves open: the two OPEN parameters of 00_scope.md
rule R9 (92_eei_decisions.md, "Open parameters"). They have no body, so nothing can be proved of a value the spec does
not give; the constraint the spec does state is built into the definition around each. Log entry 5. -/

namespace Sys2Proof.Config

/-- Which 64-byte block of the platform's byte addresses instance `k` occupies: OPEN (decision D5). -/
opaque desBaseBlock : Nat → Nat

/-- `DES_BASE` of instance `k`: the platform byte address of register index 0, "a multiple of 64" (R38). Each
instance has "its own `DES_BASE`" (R138); the engine the spec describes is instance 0. -/
def desBase (k : Nat) : Nat := 64 * desBaseBlock k

/-- How many instances a platform has beyond the first: OPEN (decision D29). -/
opaque furtherEngines : Nat

/-- `NENGINES`, "integer >= 1" (92_eei_decisions.md, "Open parameters"; R138). -/
def nEngines : Nat := furtherEngines + 1

end Sys2Proof.Config
end

