-- ==== Sys2Proof/Machine/Operands.lean ====
section
/-! DEFINITION. Every operand form the spec gives: the fields of a command value (30_encoding.md rule R55), a block or
key as eight bytes (20_memory.md rule R41), the register a platform access reaches (20_memory.md rules R38, R39), and the
round number as an index into the round-key file (10_state.md rules R28, R31). -/

namespace Sys2Proof.Machine

/-- CMD field OP, bits 7:0 (R55). -/
def cmdOp (v : Word) : BitVec 8 := v.extractLsb' 0 8

/-- CMD field RSV, bits 63:8, "reserved; must be 0" (R55). -/
def cmdRsv (v : Word) : BitVec 56 := v.extractLsb' 8 56

/-- A block or key from its bytes B0 .. B7, B0 first: `B0 || B1 || ... || B7` (R41, R58). -/
def wordOfBytes (b : Vector Byte 8) : Word := b[0] ++ b[1] ++ b[2] ++ b[3] ++ b[4] ++ b[5] ++ b[6] ++ b[7]

/-- Byte k of a value, "bits [63-8k : 56-8k]" (R41). -/
def byteOfWord (v : Word) (k : Nat) : Byte := v.extractLsb' (56 - 8 * k) 8

/-- The bytes B0 .. B7 of a value (R41). -/
def bytesOfWord (v : Word) : Vector Byte 8 :=
  #v[byteOfWord v 0, byteOfWord v 1, byteOfWord v 2, byteOfWord v 3,
     byteOfWord v 4, byteOfWord v 5, byteOfWord v 6, byteOfWord v 7]

/-- The register index of a platform access to the register block at `base`: "register index `idx` occupies the 8 bytes
at byte address `DES_BASE + 8*idx`" (R38); an access "of another size, or at an address that is not `DES_BASE + 8*idx`"
names none (R39). -/
def accessIndex (base : Nat) (a : Access) : Option (BitVec 3) :=
  if a.size = 8 ∧ base ≤ a.addr ∧ a.addr < base + 64 ∧ (a.addr - base) % 8 = 0 then
    some (BitVec.ofNat 3 ((a.addr - base) / 8))
  else none

/-- The TXN word of a platform access: W, REG and DATA (R53); a read carries DATA = 0. -/
def accessTxn (base : Nat) (a : Access) : Option TxnWord :=
  match accessIndex base a with
  | some idx => some (BitVec.ofBool a.write ++ idx ++ (if a.write then a.data else 0#64))
  | none => none

/-- ROUND as an index into a file of sixteen: round i (1..16) stands at index i - 1; any other value names none (R28). -/
def roundIndex (round : BitVec 5) : Option (Fin 16) :=
  if h : 1 ≤ round.toNat ∧ round.toNat ≤ 16 then some ⟨round.toNat - 1, by omega⟩ else none

end Sys2Proof.Machine
end

