-- ==== Sys2Proof/Machine/Ops.lean ====
section
/-! DEFINITION. The named operations over the state: reading a host register, recording and raising an error, the RESET
event, and the round-key file. Errors are this hardware's only exceptions: "There is no trap entry: an error saves no
state, changes no mode or mask, and transfers control nowhere" (60_exceptions.md rule R131), so `raiseError` is the one
shared operation that takes one, and RESET "the only way back to ERR = 0" (rule R132). -/

namespace Sys2Proof.Machine

/-- The state with another engine state. -/
def State.withEngine (s : State) (e : Engine) : State := { s with engine := e }

/-- The state after the host has observed the value of a read (R152). -/
def State.observe (s : State) (v : Word) : State := { s with reads := s.reads ++ [v] }

/-- The value `HostRead(idx)` returns: DIN, DOUT and STATUS are readable; KEY, CMD and the unmapped indices read as 0
(R113 to R118). -/
def hostRead (e : Engine) : RegIndex → Word
  | .key => 0x0000000000000000#64
  | .din => e.din
  | .dout => e.dout
  | .cmd => 0x0000000000000000#64
  | .status => e.status
  | .r5 => 0x0000000000000000#64
  | .r6 => 0x0000000000000000#64
  | .r7 => 0x0000000000000000#64

/-- A read transaction: the host observes the register's value, and the engine's state is unchanged (R44). -/
def answerRead (idx : RegIndex) (s : State) : Result := .next (s.observe (hostRead s.engine idx))

/-- `RecordError(code)`: ERR and ERRCODE are written if ERR is 0; "if ERR = 1: nothing; the first error is kept"
(R124). -/
def Engine.recordError (e : Engine) (k : ErrorKind) : Engine :=
  if e.err then e else { e with err := true, errcode := k.code }

/-- `raise Error(code)`: "`RecordError(code)` and the end of the transaction: no state other than ERR and ERRCODE
changes" (R124). The host's program goes on; nothing traps (R121, R131). -/
def raiseError (k : ErrorKind) (s : State) : Result := .next (s.withEngine (s.engine.recordError k))

/-- The RESET event: "every piece of state takes the value of 10_state.md rule R35, whatever it held before" (R141). It
is an event of the engine: what the host has read and what is going to happen next are not the engine's state (log entry
3). -/
def resetEvent (s : State) : Result := .next (s.withEngine Engine.reset)

/-- `RK[i]`, entry i of the round-key file, for i = `i.val + 1` (R14, R31). -/
def Engine.readRK (e : Engine) (i : Fin 16) : RoundKey := e.rk[i]

/-- `RK[i] <- v` for i = `i.val + 1` (R14, R31). -/
def Engine.writeRK (e : Engine) (i : Fin 16) (v : RoundKey) : Engine := { e with rk := e.rk.set i.val v i.isLt }

end Sys2Proof.Machine
end

