-- ==== Sys2Proof/Machine/BlockEngine.lean ====
section
/-! DEFINITION. The 16-round block engine (44_block_engine.md): the block functions of the source, the acceptance of
ENCRYPT and DECRYPT, and the three engine steps both directions share. -/

namespace Sys2Proof.Machine

/-- L0 and R0 of a block: `x = permute(block, 64, IP); L = x[63:32]; R = x[31:0]` (R94, R101). -/
def initialHalves (block : Word) : Half × Half :=
  let x := permute block tableIP
  (x.extractLsb' 32 32, x.extractLsb' 0 32)

/-- One round: `(L, R) = (R, xor_bits(L, f(R, k)))`, from the old L and R (R94, R102, R15). -/
def roundHalves (lr : Half × Half) (k : RoundKey) : Half × Half := (lr.2, xorBits lr.1 (feistel lr.2 k))

/-- `permute(R || L, 64, FP)`: the final swap and the final permutation (R94, R103). -/
def finalBlock (lr : Half × Half) : Word := permute (lr.2 ++ lr.1 : BitVec 64) tableFP

/-- The block function with the subkeys in the order of a list, the first one first. -/
def runBlock (block : Word) (subkeys : List RoundKey) : Word :=
  finalBlock (subkeys.foldl roundHalves (initialHalves block))

/-- `Encrypt(block, K)`: "subkeys used in forward order K1..K16" (R94). -/
def encryptBlock (block : Word) (k : RoundKeySet) : Word := runBlock block k.toList

/-- `Decrypt(block, K)`: "the identical recurrence as encryption, but with subkeys consumed in reverse order" (R95). No
inverse of f, of an S-box or of E is used (R93). -/
def decryptBlock (block : Word) (k : RoundKeySet) : Word := runBlock block k.toList.reverse

/-- `subkey(DIR, i)`: RK[i] when DIR = 0 and RK[17 - i] when DIR = 1, for i = `i.val + 1` (R96). -/
def Engine.subkey (e : Engine) (i : Fin 16) : RoundKey :=
  if e.dir then e.readRK ⟨15 - i.val, by omega⟩ else e.readRK i

/-- ENCRYPT or DECRYPT (accept), which differ in the DIR they write: BUSY_VIOLATION is "checked first", then NO_KEY
(R99, R100). -/
def acceptBlock (dir : Bool) (s : State) : Result :=
  if s.engine.busy then raiseError .busyViolation s
  else if s.engine.kv then
    .next (s.withEngine { s.engine with dir := dir, done := false, phase := .blkInitial, round := 0#5 })
  else raiseError .noKey s

/-- ENCRYPT (accept): DIR <- 0 (R99). -/
def acceptEncrypt (s : State) : Result := acceptBlock false s

/-- DECRYPT (accept): DIR <- 1 (R100). -/
def acceptDecrypt (s : State) : Result := acceptBlock true s

/-- Engine step BLK_INITIAL (R101). -/
def stepBlkInitial (e : Engine) : Engine :=
  let lr := initialHalves e.din
  { e with l := lr.1, r := lr.2, round := 1#5, phase := .blkRound }

/-- Engine step BLK_ROUND of round i = `i.val + 1` = ROUND; after round 16 "ROUND stays 16" (R102). -/
def stepBlkRound (i : Fin 16) (e : Engine) : Engine :=
  let lr := roundHalves (e.l, e.r) (e.subkey i)
  let e' := { e with l := lr.1, r := lr.2 }
  if i.val + 1 = 16 then { e' with phase := .blkFinal } else { e' with round := e.round + 1#5 }

/-- Engine step BLK_FINAL (R103). -/
def stepBlkFinal (e : Engine) : Engine :=
  { e with dout := finalBlock (e.l, e.r), done := true, phase := .idle, round := 0#5 }

end Sys2Proof.Machine
end

