-- ==== Sys2Proof/Machine/KeySchedule.lean ====
section
/-! DEFINITION. The key schedule (41_key_schedule.md): its tables, the function of a raw key, the acceptance of the
KEYSCHED command and the two engine steps. -/

namespace Sys2Proof.Machine

/-- PC1, permuted choice 1, 64 to 56 bits (R69). -/
def tablePC1 : PermTable 64 56 where
  entries :=
    [ 57, 49, 41, 33, 25, 17,  9,
       1, 58, 50, 42, 34, 26, 18,
      10,  2, 59, 51, 43, 35, 27,
      19, 11,  3, 60, 52, 44, 36,
      63, 55, 47, 39, 31, 23, 15,
       7, 62, 54, 46, 38, 30, 22,
      14,  6, 61, 53, 45, 37, 29,
      21, 13,  5, 28, 20, 12,  4 ]
  length_eq := by decide
  inRange := by decide

/-- PC2, permuted choice 2, 56 to 48 bits (R71). -/
def tablePC2 : PermTable 56 48 where
  entries :=
    [ 14, 17, 11, 24,  1,  5,
       3, 28, 15,  6, 21, 10,
      23, 19, 12,  4, 26,  8,
      16,  7, 27, 20, 13,  2,
      41, 52, 31, 37, 47, 55,
      30, 40, 51, 45, 33, 48,
      44, 49, 39, 56, 34, 53,
      46, 42, 50, 36, 29, 32 ]
  length_eq := by decide
  inRange := by decide

/-- SHIFT[1..16], the rotation amounts; SHIFT[i] stands at index i - 1 (R72). -/
def shiftTable : Vector Nat 16 := #v[1, 1, 2, 2, 2, 2, 2, 2, 1, 2, 2, 2, 2, 2, 2, 1]

/-- SHIFT[i] for i = `i.val + 1` (R72). -/
def shiftAmount (i : Fin 16) : Nat := shiftTable[i]

/-- `rotl28(x, s) = ((x << s) | (x >> (28 - s)))[27:0]` (R73). -/
def rotl28 (x : KeyHalf) (s : Nat) : KeyHalf := (x <<< s) ||| (x >>> (28 - s))

/-- C0 and D0 of a raw key: `cd = permute(key, 64, PC1); C = cd[55:28]; D = cd[27:0]` (R74 steps 1 and 2). -/
def initialKeyHalves (key : Word) : KeyHalf × KeyHalf :=
  let cd : BitVec 56 := permute key tablePC1
  (cd.extractLsb' 28 28, cd.extractLsb' 0 28)

/-- One pass of the loop of R74 for round i = `i.val + 1`: both halves rotated by SHIFT[i] (step 3). -/
def rotateKeyHalves (i : Fin 16) (cd : KeyHalf × KeyHalf) : KeyHalf × KeyHalf :=
  (rotl28 cd.1 (shiftAmount i), rotl28 cd.2 (shiftAmount i))

/-- The round key of two rotated halves: `permute(C || D, 56, PC2)` (R74 step 4). -/
def roundKeyOf (cd : KeyHalf × KeyHalf) : RoundKey := permute (cd.1 ++ cd.2) tablePC2

/-- C_n and D_n of a raw key, after the rounds 1..n of R74, n = 0..16. -/
def keyHalvesAfter (key : Word) : Nat → KeyHalf × KeyHalf
  | 0 => initialKeyHalves key
  | n + 1 => if h : n < 16 then rotateKeyHalves ⟨n, h⟩ (keyHalvesAfter key n) else keyHalvesAfter key n

/-- `GenerateRoundKeys(key)`: K[1..16], "ordered K1..K16", a function of the key alone (R74, R75). -/
def generateRoundKeys (key : Word) : RoundKeySet :=
  let k := fun n => roundKeyOf (keyHalvesAfter key n)
  #v[k 1, k 2, k 3, k 4, k 5, k 6, k 7, k 8, k 9, k 10, k 11, k 12, k 13, k 14, k 15, k 16]

/-- KEYSCHED (accept): BUSY_VIOLATION while an operation is in progress; else KV is cleared and the sequencer set to
KS_INITIAL (R76). -/
def acceptKeysched (s : State) : Result :=
  if s.engine.busy then raiseError .busyViolation s
  else .next (s.withEngine { s.engine with kv := false, phase := .ksInitial, round := 0#5 })

/-- Engine step KS_INITIAL (R77). -/
def stepKsInitial (e : Engine) : Engine :=
  let cd := initialKeyHalves e.key
  { e with c := cd.1, d := cd.2, round := 1#5, phase := .ksRound }

/-- Engine step KS_ROUND of round i = `i.val + 1` = ROUND (R78). -/
def stepKsRound (i : Fin 16) (e : Engine) : Engine :=
  let cd := rotateKeyHalves i (e.c, e.d)
  let e' := { e with c := cd.1, d := cd.2 }.writeRK i (roundKeyOf cd)
  if i.val + 1 = 16 then { e' with phase := .idle, round := 0#5, kv := true } else { e' with round := e.round + 1#5 }

end Sys2Proof.Machine
end

