-- ==== Sys2Proof/Machine/Sequencer.lean ====
section
/-! DEFINITION. The sequencer (10_state.md rules R28, R34): which engine step a state has, and the engine's turn in the
total order of events. -/

namespace Sys2Proof.Machine

/-- The next engine state, where the state has an engine step: the step its PHASE names (R28), and only in a state of
R34 ("a state outside them has no engine step"). No step reads ERR or ERRCODE beyond that (R130). -/
def engineStep (e : Engine) : Option Engine :=
  if e.legal then
    match e.phase with
    | .idle => none
    | .ksInitial => some (stepKsInitial e)
    | .ksRound => (roundIndex e.round).map fun i => stepKsRound i e
    | .blkInitial => some (stepBlkInitial e)
    | .blkRound => (roundIndex e.round).map fun i => stepBlkRound i e
    | .blkFinal => some (stepBlkFinal e)
    | .reserved6 => none
    | .reserved7 => none
  else none

/-- The engine's turn. IDLE "is the only state in which the engine does nothing", and "All state is kept while idle"
(R140); a state that is not IDLE and has no engine step is stuck (R34; log entry 4). -/
def engineTurn (s : State) : Result :=
  match engineStep s.engine with
  | some e => .next (s.withEngine e)
  | none => if s.engine.busy then .fault .noEngineStep else .next s

/-- `n` engine steps in a row, none left out: defined only if the state has that many. -/
def engineSteps : Nat → Engine → Option Engine
  | 0, e => some e
  | n + 1, e => (engineStep e).bind (engineSteps n)

end Sys2Proof.Machine
end

