-- ==== Sys2Proof/Machine/Command.lean ====
section
/-! DEFINITION. WR CMD and the four commands (45_host_interface.md rules R109, R110; 60_exceptions.md rules R126, R127).
A command as an instruction of its own is the write transaction that issues it: `NOP` is `WR CMD, 0x0`, `KEYSCHED` is
`WR CMD, 0x1`, and so on (30_encoding.md rule R60). -/

namespace Sys2Proof.Machine

/-- NOP (accept): nothing (R110). -/
def acceptNop (s : State) : Result := .next s

/-- The write of a command to CMD, from the check of ERR on: "if ERR = 1: return -- ignored, nothing changes" (R109,
R126; log entry 8). -/
def issue (accept : State → Result) (s : State) : Result := if s.engine.err then .next s else accept s

/-- NOP: `WR CMD, 0x0`, no effect in any state (R110). -/
def execNop (s : State) : Result := issue acceptNop s

/-- KEYSCHED: `WR CMD, 0x1` (R76). -/
def execKeysched (s : State) : Result := issue acceptKeysched s

/-- ENCRYPT: `WR CMD, 0x2` (R99). -/
def execEncrypt (s : State) : Result := issue acceptEncrypt s

/-- DECRYPT: `WR CMD, 0x3` (R100). -/
def execDecrypt (s : State) : Result := issue acceptDecrypt s

/-- WR CMD with ERR = 0: a reserved value is ILLEGAL_COMMAND, before any other check; else the command that OP selects
(R109, R57). The last case is OP = 0x03. -/
def acceptCmdWrite (data : Word) (s : State) : Result :=
  if cmdRsv data ≠ 0#56 ∨ (cmdOp data).toNat > 0x03 then raiseError .illegalCommand s
  else if cmdOp data = 0x00#8 then acceptNop s
  else if cmdOp data = 0x01#8 then acceptKeysched s
  else if cmdOp data = 0x02#8 then acceptEncrypt s
  else acceptDecrypt s

/-- WR CMD: issue the command of DATA, checks in the order of R127 (R109). -/
def execWrCmd (data : Word) (s : State) : Result := issue (acceptCmdWrite data) s

end Sys2Proof.Machine
end

