-- ==== Sys2Proof/Machine/HostRead.lean ====
section
/-! DEFINITION. The read transactions (45_host_interface.md section 2): "Every read leaves all state unchanged and raises
no error". DATA is ignored (30_encoding.md rule R53). -/

namespace Sys2Proof.Machine

/-- RD KEY returns 0: "The key cannot be read back, in any state" (R113). -/
def execRdKey (s : State) : Result := answerRead .key s

/-- RD DIN returns DIN (R114). -/
def execRdDin (s : State) : Result := answerRead .din s

/-- RD DOUT returns DOUT, also while BUSY = 1 or DONE = 0 (R115). -/
def execRdDout (s : State) : Result := answerRead .dout s

/-- RD CMD returns 0 (R116). -/
def execRdCmd (s : State) : Result := answerRead .cmd s

/-- RD STATUS returns the composed STATUS value (R117). -/
def execRdStatus (s : State) : Result := answerRead .status s

/-- RD R5 returns 0; no error (R118). -/
def execRdR5 (s : State) : Result := answerRead .r5 s

/-- RD R6 returns 0; no error (R118). -/
def execRdR6 (s : State) : Result := answerRead .r6 s

/-- RD R7 returns 0; no error (R118). -/
def execRdR7 (s : State) : Result := answerRead .r7 s

end Sys2Proof.Machine
end

