-- ==== Sys2Proof/Machine/HostWrite.lean ====
section
/-! DEFINITION. The write transactions (45_host_interface.md section 1) but for WR CMD, which Command.lean has. -/

namespace Sys2Proof.Machine

/-- WR KEY: BUSY_VIOLATION while an operation is in progress; else `KEY <- v; KV <- 0` (R107). -/
def execWrKey (data : Word) (s : State) : Result :=
  if s.engine.busy then raiseError .busyViolation s
  else .next (s.withEngine { s.engine with key := data, kv := false })

/-- WR DIN: BUSY_VIOLATION while an operation is in progress; else `DIN <- v` (R108). -/
def execWrDin (data : Word) (s : State) : Result :=
  if s.engine.busy then raiseError .busyViolation s
  else .next (s.withEngine { s.engine with din := data })

/-- WR DOUT: `raise Error(ILLEGAL_ACCESS)`, busy or not; DATA is ignored (R111). -/
def execWrDout (s : State) : Result := raiseError .illegalAccess s

/-- WR STATUS: `raise Error(ILLEGAL_ACCESS)`, busy or not; DATA is ignored (R111). -/
def execWrStatus (s : State) : Result := raiseError .illegalAccess s

/-- WR R5: `raise Error(ILLEGAL_ACCESS)`; DATA is ignored (R112). -/
def execWrR5 (s : State) : Result := raiseError .illegalAccess s

/-- WR R6: `raise Error(ILLEGAL_ACCESS)`; DATA is ignored (R112). -/
def execWrR6 (s : State) : Result := raiseError .illegalAccess s

/-- WR R7: `raise Error(ILLEGAL_ACCESS)`; DATA is ignored (R112). -/
def execWrR7 (s : State) : Result := raiseError .illegalAccess s

end Sys2Proof.Machine
end

