-- ==== Sys2Proof/Machine/Dispatch.lean ====
section
/-! DEFINITION. One arm per instruction, each a direct call of its meaning. -/

namespace Sys2Proof.Machine

/-- The effect of an instruction, as one atomic transition (R15). -/
def exec (i : Instr) (s : State) : Host.Outcome State Fault Refusal :=
  match i with
  | .wrKey data => Sys2Proof.Machine.execWrKey data s
  | .wrDin data => Sys2Proof.Machine.execWrDin data s
  | .wrDout _ => Sys2Proof.Machine.execWrDout s
  | .wrCmd data => Sys2Proof.Machine.execWrCmd data s
  | .wrStatus _ => Sys2Proof.Machine.execWrStatus s
  | .wrR5 _ => Sys2Proof.Machine.execWrR5 s
  | .wrR6 _ => Sys2Proof.Machine.execWrR6 s
  | .wrR7 _ => Sys2Proof.Machine.execWrR7 s
  | .rdKey _ => Sys2Proof.Machine.execRdKey s
  | .rdDin _ => Sys2Proof.Machine.execRdDin s
  | .rdDout _ => Sys2Proof.Machine.execRdDout s
  | .rdCmd _ => Sys2Proof.Machine.execRdCmd s
  | .rdStatus _ => Sys2Proof.Machine.execRdStatus s
  | .rdR5 _ => Sys2Proof.Machine.execRdR5 s
  | .rdR6 _ => Sys2Proof.Machine.execRdR6 s
  | .rdR7 _ => Sys2Proof.Machine.execRdR7 s
  | .nop => Sys2Proof.Machine.execNop s
  | .keysched => Sys2Proof.Machine.execKeysched s
  | .encrypt => Sys2Proof.Machine.execEncrypt s
  | .decrypt => Sys2Proof.Machine.execDecrypt s

end Sys2Proof.Machine
end

