-- ==== Sys2Proof/Machine/Fetch.lean ====
section
/-! DEFINITION. Which event happens next and what it asks of the machine. "There is no instruction fetch" from a memory
(20_memory.md rule R49): the host issues transactions, and the step takes the next event of the agenda. -/

namespace Sys2Proof.Machine

/-- What an event asks of the machine. -/
inductive Action where
  /-- A host transaction or command: run its instruction. -/
  | execute (i : Instr)
  /-- The engine takes its turn. -/
  | engineTurn
  /-- The RESET event. -/
  | resetEvent
  /-- The event is nothing this hardware has (R39). -/
  | reject (r : Refusal)
deriving DecidableEq, Repr

/-- The next event. When no more is announced, the host has issued its last transaction, and only the engine can still
step ("a model must let the engine finish before taking the end state", R152; R151; log entry 7). -/
def State.nextEvent (s : State) : Event := s.agenda.headD .engineStep

/-- The state with the next event taken from the agenda. -/
def State.popEvent (s : State) : State := { s with agenda := s.agenda.tail }

/-- The instruction of a word: what it decodes to, or, for a reserved command value, the `WR CMD` transaction that
carries it, whose rule gives the error (R57, R109). -/
def instrOf (w : CodeWord) : Instr :=
  match decode w with
  | .ok i => i
  | .error (.reservedCommand v) => .wrCmd v

/-- What an event asks of the engine whose register block lies at `base`. -/
def interpret (base : Nat) : Event → Action
  | .word w => .execute (instrOf w)
  | .access a =>
    match accessTxn base a with
    | some w => .execute (decodeTxn w)
    | none => .reject .notATransaction
  | .engineStep => .engineTurn
  | .reset => .resetEvent

/-- The event that is an instruction word of the opcode table's numbering. Bits that are no word of either format are
no transaction of this hardware (R39): they stand as an access of a size it does not have, which the step refuses (log entry 9). -/
def wordEvent (nbits w : Nat) : Event :=
  match codeWordOfBits nbits w with
  | some c => .word c
  | none => .access { write := true, addr := 0, size := 0, data := 0#64 }

end Sys2Proof.Machine
end

