-- ==== Sys2Proof/Machine/Step.lean ====
section
/-! DEFINITION. One step of the machine: the next event of the total order takes effect, atomically (20_memory.md rules
R43, R45). -/

namespace Sys2Proof.Machine

/-- What an action does. -/
def perform (a : Action) (s : State) : Host.Outcome State Fault Refusal :=
  match a with
  | .execute i => exec i s
  | .engineTurn => engineTurn s
  | .resetEvent => resetEvent s
  | .reject r => .refused r

/-- What the next event asks of the engine whose register block lies at `base`. -/
def State.action (base : Nat) (s : State) : Action := interpret base s.nextEvent

/-- One step of an engine whose register block lies at `base`. -/
def stepAt (base : Nat) (s : State) : Host.Outcome State Fault Refusal := perform (s.action base) s.popEvent

/-- One step of the engine the spec describes, instance 0. -/
def step (s : State) : Host.Outcome State Fault Refusal := stepAt (Config.desBase 0) s

/-- The state in which an instruction word, in the opcode table's numbering, is the next event. A program comes to run
by the host issuing its transactions (log entry 2). -/
def State.withFetchWord (s : State) (nbits w : Nat) : State := { s with agenda := wordEvent nbits w :: s.agenda }

end Sys2Proof.Machine
end

