-- ==== Sys2Proof/Machine/Asm.lean ====
section
/-! DEFINITION. The spec's assembler for host programs (30_encoding.md section 3, rules R59 and R60): what a line of text
assembles to. Text is a list of characters. Host-side control flow "belongs to the host program, not to this hardware"
(R59), so `bnz` is only named here, as the expansion of WAIT needs it. Log entry 14. -/

namespace Sys2Proof.Machine.Asm

/-- One operation of a host program. -/
inductive HostOp where
  /-- A transaction the host issues. -/
  | transact (w : TxnWord)
  /-- `BNZ <rd-result>[bit], label`: if that bit of the last read result is 1, continue `back` operations earlier. It
  has no encoding (R59). -/
  | bnz (bit : Nat) (back : Nat)
deriving DecidableEq, Repr

/-- `<reg>`: the index of a register name, "case-insensitive" (R59). -/
def register (name : List Char) : Option (BitVec 3) :=
  let n := name.map Char.toUpper
  if n = "KEY".toList then some 0#3
  else if n = "DIN".toList then some 1#3
  else if n = "DOUT".toList then some 2#3
  else if n = "CMD".toList then some 3#3
  else if n = "STATUS".toList then some 4#3
  else if n = "R5".toList then some 5#3
  else if n = "R6".toList then some 6#3
  else if n = "R7".toList then some 7#3
  else none

/-- A command mnemonic "standing for its CMD value" (R59, R56). -/
def command (name : List Char) : Option Word :=
  if name = "NOP".toList then some 0#64
  else if name = "KEYSCHED".toList then some 1#64
  else if name = "ENCRYPT".toList then some 2#64
  else if name = "DECRYPT".toList then some 3#64
  else none

/-- One hexadecimal digit. -/
def hexDigit (c : Char) : Option Nat :=
  if '0' ≤ c ∧ c ≤ '9' then some (c.toNat - '0'.toNat)
  else if 'a' ≤ c ∧ c ≤ 'f' then some (c.toNat - 'a'.toNat + 10)
  else if 'A' ≤ c ∧ c ≤ 'F' then some (c.toNat - 'A'.toNat + 10)
  else none

/-- The value of a list of hexadecimal digits, "the most significant digit first" (R10), on top of `acc`. -/
def hexValue : List Char → Nat → Option Nat
  | [], acc => some acc
  | c :: cs, acc =>
    match hexDigit c with
    | some d => hexValue cs (16 * acc + d)
    | none => none

/-- `<imm>`: "a hexadecimal literal `0x` followed by 1 to 16 digits, zero-extended to 64 bits, or a command mnemonic"; a
wider literal "is refused by the assembler" (R59). -/
def immediate : List Char → Option Word
  | '0' :: 'x' :: digits =>
    if 1 ≤ digits.length ∧ digits.length ≤ 16 then (hexValue digits 0).map (BitVec.ofNat 64) else none
  | name => command name

/-- `WR <reg>, <imm>`: TXN with W = 1 (R59). -/
def assembleWrite (reg : BitVec 3) (imm : Word) : TxnWord := 1#1 ++ reg ++ imm

/-- `RD <reg>`: TXN with W = 0 and DATA = 0 (R59). -/
def assembleRead (reg : BitVec 3) : TxnWord := 0#1 ++ reg ++ 0#64

/-- A command mnemonic as a line: `WR CMD, <its value>` (R60). -/
def issueCommand (value : Word) : List HostOp := [.transact (assembleWrite 3#3 value)]

/-- `WAIT`: `w: RD STATUS` then `BNZ STATUS[0], w`, "poll until BUSY = 0" (R60). -/
def wait : List HostOp := [.transact (assembleRead 4#3), .bnz 0 1]

/-- `SETKEY k`: `WR KEY, k` ; `KEYSCHED` ; `WAIT` (R60). -/
def setKey (k : Word) : List HostOp := .transact (assembleWrite 0#3 k) :: (issueCommand 1#64 ++ wait)

/-- `ENC b` and `DEC b`, which differ in the command: `WR DIN, b` ; the command ; `WAIT` ; `RD DOUT` (R60). -/
def processBlock (commandValue : Word) (b : Word) : List HostOp :=
  .transact (assembleWrite 1#3 b) :: (issueCommand commandValue ++ wait ++ [.transact (assembleRead 2#3)])

/-- The text before a comment: "`; text` is a comment" (R59). -/
def stripComment (line : List Char) : List Char := line.takeWhile fun c => c != ';'

/-- The text after a label: "`label:` names the position of the next line" (R59). -/
def stripLabel (line : List Char) : List Char :=
  if line.contains ':' then (line.dropWhile fun c => c != ':').drop 1 else line

/-- The words of a line: separated by spaces, a comma a word of its own. `word` is the word being read, reversed. -/
def tokens : List Char → List Char → List (List Char)
  | [], word => if word.isEmpty then [] else [word.reverse]
  | c :: cs, word =>
    let done := if word.isEmpty then [] else [word.reverse]
    if c = ' ' then done ++ tokens cs []
    else if c = ',' then done ++ [','] :: tokens cs []
    else tokens cs (c :: word)

/-- A line of one word: a pseudo-instruction without operand (R60). -/
def assembleBare (op : List Char) : Option (List HostOp) :=
  if op = "WAIT".toList then some wait else (command op).map issueCommand

/-- A line of two words: `RD <reg>`, `SETKEY k`, `ENC b`, `DEC b` (R59, R60). -/
def assembleUnary (op operand : List Char) : Option (List HostOp) :=
  if op = "RD".toList then (register operand).map fun reg => [.transact (assembleRead reg)]
  else if op = "SETKEY".toList then (immediate operand).map setKey
  else if op = "ENC".toList then (immediate operand).map (processBlock 2#64)
  else if op = "DEC".toList then (immediate operand).map (processBlock 3#64)
  else none

/-- A line of a host program, or nothing where the assembler refuses it. -/
def assembleLine (line : List Char) : Option (List HostOp) :=
  match tokens (stripLabel (stripComment line)) [] with
  | [] => some []
  | [op] => assembleBare op
  | [op, operand] => assembleUnary op operand
  | [op, reg, comma, imm] =>
    if op = "WR".toList ∧ comma = [','] then
      (register reg).bind fun r => (immediate imm).map fun v => [.transact (assembleWrite r v)]
    else none
  | _ => none

end Sys2Proof.Machine.Asm
end

