-- ==== Sys2Proof/Machine/Platform.lean ====
section
/-! DEFINITION. A platform of NENGINES independent instances (60_exceptions.md rule R138): "each with its own copy of
every piece of state of 10_state.md and its own `DES_BASE`". -/

namespace Sys2Proof.Machine

/-- The instances of a platform, instance 0 first. They "share nothing" (R138). -/
structure Platform where
  engines : List State
deriving DecidableEq, Repr

/-- A platform has NENGINES instances. -/
def Platform.wf (p : Platform) : Bool := p.engines.length == Config.nEngines

/-- One step of instance `k`: the others keep their state, and no instance starts or signals another (R138; log entry 16). -/
def Platform.step (k : Nat) (p : Platform) : Host.Outcome Platform Fault Refusal :=
  match p.engines[k]? with
  | none => .refused .noSuchInstance
  | some s =>
    match stepAt (Config.desBase k) s with
    | .next s' => .next { engines := p.engines.set k s' }
    | .fault r => .fault r
    | .refused r => .refused r

end Sys2Proof.Machine
end

