-- ==== Sys2Proof/Safety.lean ====
section
/-! DEFINITION. What counts as a safe run: the hazards a host program must respect (70_reset_and_hazards.md rules R143 to
R148), as predicates of a state and of the instruction the host issues in it. -/

namespace Sys2Proof.Machine

/-- The host keeps the discipline of the interface with this instruction in this state: it writes no read-only or
unmapped register (R111, R112) and no reserved command (R57); while BUSY it does not "write KEY, DIN or any command other
than NOP" (R144); and it starts a block operation only with valid round keys (R143, R146). -/
def disciplined (e : Engine) : Instr → Bool
  | .wrKey _ | .wrDin _ => !e.busy
  | .wrDout _ | .wrStatus _ | .wrR5 _ | .wrR6 _ | .wrR7 _ => false
  | .wrCmd v =>
    if v = 0#64 then true
    else if v = 1#64 then !e.busy
    else if v = 2#64 ∨ v = 3#64 then !e.busy && e.kv
    else false
  | .rdKey _ | .rdDin _ | .rdDout _ | .rdCmd _ | .rdStatus _ | .rdR5 _ | .rdR6 _ | .rdR7 _ => true
  | .nop => true
  | .keysched => !e.busy
  | .encrypt | .decrypt => !e.busy && e.kv

/-- An action keeps the discipline: engine steps and RESET always do (R144 is about the host). -/
def disciplinedAction (e : Engine) : Action → Bool
  | .execute i => disciplined e i
  | .engineTurn => true
  | .resetEvent => true
  | .reject _ => false

/-- A safe state: one of R34 with no error recorded. -/
def Engine.safe (e : Engine) : Bool := e.legal && !e.err

/-- DOUT holds the result of the host's last command: "STATUS with BUSY = 0 and DONE = 1", and "ERR = 0 in the same
STATUS value" (R145, R148). -/
def Engine.resultReady (e : Engine) : Bool := !e.busy && e.done && !e.err

/-- What a host that has just read STATUS checks of the value: BUSY = 0 (bit 0), DONE = 1 (bit 1), ERR = 0 (bit 3). -/
def statusShowsResult (status : Word) : Bool := !status.getLsbD 0 && status.getLsbD 1 && !status.getLsbD 3

/-- What the host can see of the engine: the values its reads can return. "That KEY reads as 0 and RK cannot be read ...
is the only protection of key material" (R135); L, R, C, D and RK "are not observable" (R139). -/
def Engine.hostView (e : Engine) : Word × Word × Word := (e.din, e.dout, e.status)

/-- An instruction that only observes: a read (R44) or NOP (R110). -/
def observes : Instr → Bool
  | .rdKey _ | .rdDin _ | .rdDout _ | .rdCmd _ | .rdStatus _ | .rdR5 _ | .rdR6 _ | .rdR7 _ => true
  | .nop => true
  | .wrCmd v => v == 0#64
  | .wrKey _ | .wrDin _ | .wrDout _ | .wrStatus _ | .wrR5 _ | .wrR6 _ | .wrR7 _ => false
  | .keysched | .encrypt | .decrypt => false

/-- An event of a host that waits for the engine whose register block lies at `base`: an engine step, or a transaction
that only observes, such as the polls of STATUS (R46), issued as a word or as a platform access (R38). -/
def waits (base : Nat) (ev : Event) : Bool :=
  match interpret base ev with
  | .execute i => observes i
  | .engineTurn => true
  | .resetEvent => false
  | .reject _ => false

/-! ## The error an instruction raises -/

/-- The error a write of a command raises when ERR = 0, in the order of R127 item 1: (b) a reserved value, (c) BUSY, (d)
KV = 0. -/
def commandError (e : Engine) (v : Word) : Option ErrorKind :=
  if v.toNat > 3 then some .illegalCommand
  else if v.toNat = 0 then none
  else if e.busy then some .busyViolation
  else if v.toNat ≠ 1 ∧ e.kv = false then some .noKey
  else none

/-- The error an instruction raises, "the first that holds" of the list of R127. -/
def errorOf (e : Engine) : Instr → Option ErrorKind
  | .wrCmd v => if e.err then none else commandError e v
  | .nop => if e.err then none else commandError e 0#64
  | .keysched => if e.err then none else commandError e 1#64
  | .encrypt => if e.err then none else commandError e 2#64
  | .decrypt => if e.err then none else commandError e 3#64
  | .wrKey _ | .wrDin _ => if e.busy then some .busyViolation else none
  | .wrDout _ | .wrStatus _ | .wrR5 _ | .wrR6 _ | .wrR7 _ => some .illegalAccess
  | .rdKey _ | .rdDin _ | .rdDout _ | .rdCmd _ | .rdStatus _ | .rdR5 _ | .rdR6 _ | .rdR7 _ => none

/-! ## What a run computes -/

/-- The cipher result of a direction: Encrypt when DIR = 0, Decrypt when DIR = 1 (R103). -/
def blockResult (dir : Bool) (block : Word) (k : RoundKeySet) : Word :=
  if dir then decryptBlock block k else encryptBlock block k

/-- L_n and R_n of the block operation in progress: n rounds on DIN with the round keys of RK in the order DIR says. -/
def Engine.halvesAfter (e : Engine) (n : Nat) : Half × Half :=
  ((if e.dir then e.rk.toList.reverse else e.rk.toList).take n).foldl roundHalves (initialHalves e.din)

/-- "While KV is 1, RK[1..16] is the RoundKeySet the source's key schedule gives for the current KEY" (R25); and a key
schedule in progress has computed, for the current KEY, C and D of the last round done and the round keys so far. -/
def Engine.KeyScheduleInv (e : Engine) : Prop :=
  (e.kv = true → e.rk = generateRoundKeys e.key) ∧
  (e.phase = .ksRound → ∀ n, e.round.toNat = n + 1 →
    (e.c, e.d) = keyHalvesAfter e.key n ∧ ∀ i : Fin 16, i.val < n → e.readRK i = (generateRoundKeys e.key)[i])

/-- L and R of a block operation in progress are "L_i and R_i of the source after round i" (R29). -/
def Engine.BlockInv (e : Engine) : Prop :=
  (e.phase = .blkRound → ∀ n, e.round.toNat = n + 1 → (e.l, e.r) = e.halvesAfter n) ∧
  (e.phase = .blkFinal → (e.l, e.r) = e.halvesAfter 16)

/-- `n` turns of the engine, a turn in IDLE changing nothing (R140). -/
def settle : Nat → Engine → Engine
  | 0, e => e
  | n + 1, e => settle n ((engineStep e).getD e)

end Sys2Proof.Machine
end

