-- ==== Sys2Proof/Certificates/Slice0/Obligations.lean ====
section
/-! DEFINITION. The statements for the provers. Each docstring names the rule it formalises; the tests hold a witness for
every statement that has hypotheses. -/

open Sys2Proof Sys2Proof.Machine

/-! ## Reset -/

/-- R35 and R142: after RESET every piece of the engine's state has the value of R35's table, STATUS reads 0, the state
after it "does not depend on the state before it", and two RESETs in a row are as one. The events stand in the agenda,
which is the model's (log entry 1). -/
def Obligations.ResetSetsEveryPieceOfState : Prop :=
  (∀ (base : Nat) (s : State), s.action base = .resetEvent → ∃ t, stepAt base s = .next t ∧
    t.engine.key = 0x0000000000000000#64 ∧ t.engine.din = 0x0000000000000000#64 ∧
    t.engine.dout = 0x0000000000000000#64 ∧ t.engine.done = false ∧ t.engine.kv = false ∧ t.engine.err = false ∧
    t.engine.errcode = 0#4 ∧ t.engine.dir = false ∧ t.engine.phase.code = 0#3 ∧ t.engine.round = 0#5 ∧
    t.engine.l = 0x00000000#32 ∧ t.engine.r = 0x00000000#32 ∧ t.engine.c = 0x0000000#28 ∧ t.engine.d = 0x0000000#28 ∧
    (∀ i : Fin 16, t.engine.readRK i = 0x000000000000#48) ∧ t.engine.status = 0x0000000000000000#64 ∧
    t.engine = State.reset.engine) ∧
  (∀ (base : Nat) (s s' t t' : State), s.action base = .resetEvent → s'.action base = .resetEvent →
    stepAt base s = .next t → stepAt base s' = .next t' → t.engine = t'.engine) ∧
  (∀ (base : Nat) (s t t' : State), s.agenda = [.reset, .reset] → stepAt base s = .next t → stepAt base t = .next t' →
    t'.engine = t.engine)

/-! ## STATUS -/

/-- R22: the layout of STATUS, composed from the state at the moment of the read; a read returns it and a write is the
error ILLEGAL_ACCESS. R23: BUSY is 1 exactly when PHASE is not IDLE. And the check of R145 and R148, made on the value
read, holds exactly when DOUT is the result of the last command. -/
def Obligations.StatusWordLayout : Prop :=
  (∀ e : Engine,
    e.status.getLsbD 0 = e.busy ∧ (e.busy = true ↔ e.phase ≠ .idle) ∧ e.status.getLsbD 1 = e.done ∧
    e.status.getLsbD 2 = e.kv ∧ e.status.getLsbD 3 = e.err ∧ e.status.extractLsb' 4 4 = e.errcode ∧
    e.status.getLsbD 8 = e.dir ∧ e.status.extractLsb' 9 3 = e.phase.code ∧ e.status.extractLsb' 12 5 = e.round ∧
    e.status.extractLsb' 17 47 = 0#47 ∧ statusShowsResult e.status = e.resultReady) ∧
  (∀ (data : Word) (s : State), exec (.rdStatus data) s = .next (s.observe s.engine.status) ∧
    exec (.wrStatus data) s = .next (s.withEngine (s.engine.recordError .illegalAccess)))

/-! ## Write transactions -/

/-- R107: WR KEY. -/
def Obligations.WrKeyLoadsKeyAndClearsKeyValid : Prop :=
  ∀ (v : Word) (s : State),
    decode (.txn (0x8#4 ++ v)) = .ok (.wrKey v) ∧
    (s.engine.busy = false → exec (.wrKey v) s = .next (s.withEngine { s.engine with key := v, kv := false })) ∧
    (s.engine.busy = true → exec (.wrKey v) s = .next (s.withEngine (s.engine.recordError .busyViolation)) ∧
      (s.engine.err = true → exec (.wrKey v) s = .next s)) ∧
    (∃ t, exec (.wrKey 0x133457799BBCDFF1#64) State.reset = .next t ∧ t.engine.status = 0#64 ∧
      t.engine.key = 0x133457799BBCDFF1#64)

/-- R108: WR DIN. -/
def Obligations.WrDinLoadsInputBlock : Prop :=
  ∀ (v : Word) (s : State),
    decode (.txn (0x9#4 ++ v)) = .ok (.wrDin v) ∧
    (s.engine.busy = false → exec (.wrDin v) s = .next (s.withEngine { s.engine with din := v })) ∧
    (s.engine.busy = true → exec (.wrDin v) s = .next (s.withEngine (s.engine.recordError .busyViolation)))

/-- R111, R112: a write to DOUT, STATUS or an unmapped index raises ILLEGAL_ACCESS, busy or not, "recorded only if
ERR = 0", and stores nothing. -/
def Obligations.WritesToReadOnlyAndUnmappedAreErrors : Prop :=
  (∀ (digit : BitVec 4) (v : Word) (i : Instr),
    (digit, i) ∈ [(0xA#4, Instr.wrDout v), (0xC#4, .wrStatus v), (0xD#4, .wrR5 v), (0xE#4, .wrR6 v), (0xF#4, .wrR7 v)] →
    decode (.txn (digit ++ v)) = .ok i ∧
    (∀ s : State, s.engine.err = false →
      exec i s = .next (s.withEngine { s.engine with err := true, errcode := 4#4 })) ∧
    (∀ s : State, s.engine.err = true → exec i s = .next s)) ∧
  (∃ t, exec (.wrStatus 0#64) State.reset = .next t ∧ t.engine.status = 0x0000000000000048#64) ∧
  (∃ t, exec (.wrR7 0xFFFFFFFFFFFFFFFF#64) State.reset = .next t ∧ t.engine.status = 0x0000000000000048#64)

/-! ## Read transactions -/

/-- R113 to R118: what each read returns, whatever its DATA. `observe` appends the value to what the host has read and
changes nothing else, so the engine's state and the coming events stay as they were. That list is the model's (log
entry 3). -/
def Obligations.ReadsReturnTheirRegister : Prop :=
  ∀ (data : Word) (s : State),
    (∀ v : Word, (s.observe v).engine = s.engine ∧ (s.observe v).agenda = s.agenda ∧
      (s.observe v).reads = s.reads ++ [v]) ∧
    decode (.txn (0x0#4 ++ data)) = .ok (.rdKey data) ∧ exec (.rdKey data) s = .next (s.observe 0#64) ∧
    decode (.txn (0x1#4 ++ data)) = .ok (.rdDin data) ∧ exec (.rdDin data) s = .next (s.observe s.engine.din) ∧
    decode (.txn (0x2#4 ++ data)) = .ok (.rdDout data) ∧ exec (.rdDout data) s = .next (s.observe s.engine.dout) ∧
    decode (.txn (0x3#4 ++ data)) = .ok (.rdCmd data) ∧ exec (.rdCmd data) s = .next (s.observe 0#64) ∧
    decode (.txn (0x4#4 ++ data)) = .ok (.rdStatus data) ∧
    exec (.rdStatus data) s = .next (s.observe ((s.engine.round ++ s.engine.phase.code ++ BitVec.ofBool s.engine.dir ++
      s.engine.errcode ++ BitVec.ofBool s.engine.err ++ BitVec.ofBool s.engine.kv ++ BitVec.ofBool s.engine.done ++
      BitVec.ofBool s.engine.busy).setWidth 64)) ∧
    decode (.txn (0x5#4 ++ data)) = .ok (.rdR5 data) ∧ exec (.rdR5 data) s = .next (s.observe 0#64) ∧
    decode (.txn (0x6#4 ++ data)) = .ok (.rdR6 data) ∧ exec (.rdR6 data) s = .next (s.observe 0#64) ∧
    decode (.txn (0x7#4 ++ data)) = .ok (.rdR7 data) ∧ exec (.rdR7 data) s = .next (s.observe 0#64)

/-! ## Commands -/

/-- R109: WR CMD, with the next state written out for each of the four commands in an idle engine. -/
def Obligations.WrCmdIssuesItsCommand : Prop :=
  (∀ (v : Word) (s : State),
    decode (.txn (0xB#4 ++ v)) = .ok (.wrCmd v) ∧
    (s.engine.err = true → exec (.wrCmd v) s = .next s) ∧
    (s.engine.err = false → v.extractLsb' 8 56 ≠ 0#56 ∨ (v.extractLsb' 0 8).toNat > 0x03 →
      exec (.wrCmd v) s = .next (s.withEngine (s.engine.recordError .illegalCommand))) ∧
    (∀ i : Instr, decode (.cmd v) = .ok i → exec (.wrCmd v) s = exec i s)) ∧
  (∀ s : State, s.engine.err = false → s.engine.busy = false →
    exec (.wrCmd 0#64) s = .next s ∧
    exec (.wrCmd 1#64) s = .next (s.withEngine { s.engine with kv := false, phase := .ksInitial, round := 0#5 }) ∧
    (s.engine.kv = true →
      exec (.wrCmd 2#64) s =
        .next (s.withEngine { s.engine with dir := false, done := false, phase := .blkInitial, round := 0#5 }) ∧
      exec (.wrCmd 3#64) s =
        .next (s.withEngine { s.engine with dir := true, done := false, phase := .blkInitial, round := 0#5 }))) ∧
  (∃ t, exec (.wrCmd 4#64) State.reset = .next t ∧ t.engine.status = 0x0000000000000018#64)

/-- R57: every value but the four of R56 is reserved; writing it records ILLEGAL_COMMAND and does nothing else, busy or
not, and is ignored while ERR = 1. The next event is that of the agenda, which is the model's (log entry 1). -/
def Obligations.ReservedCommandsRaiseIllegalCommand : Prop :=
  ∀ v : Word, v ≠ 0#64 → v ≠ 1#64 → v ≠ 2#64 → v ≠ 3#64 →
    (0x04 ≤ (v.extractLsb' 0 8).toNat ∨ v.extractLsb' 8 56 ≠ 0#56) ∧
    decode (.cmd v) = .error (.reservedCommand v) ∧
    (∀ (base : Nat) (s : State), s.nextEvent = .word (.cmd v) ∨ s.nextEvent = .word (.txn (0xB#4 ++ v)) →
      (s.engine.err = false →
        stepAt base s = .next (s.popEvent.withEngine { s.engine with err := true, errcode := 1#4 })) ∧
      (s.engine.err = true → stepAt base s = .next s.popEvent))

/-- R110: NOP leaves the state unchanged, in any state. -/
def Obligations.NopHasNoEffect : Prop :=
  decode (.cmd 0x0000000000000000#64) = .ok .nop ∧
  decode (.txn 0xB0000000000000000#68) = .ok (.wrCmd 0#64) ∧
  ∀ s : State, exec .nop s = .next s ∧ exec (.wrCmd 0#64) s = .next s

/-- The acceptance of KEYSCHED (41_key_schedule.md section 3): what it writes and, the next state being written out, that
DONE, DIR, DOUT and RK keep their values; BUSY_VIOLATION while an operation is in progress; the STATUS of the example. -/
def Obligations.KeyschedStartsKeySchedule : Prop :=
  decode (.cmd 1#64) = .ok .keysched ∧
  (∀ s : State, s.engine.err = false → s.engine.busy = false →
    exec .keysched s = .next (s.withEngine { s.engine with kv := false, phase := .ksInitial, round := 0#5 })) ∧
  (∀ s : State, s.engine.err = false → s.engine.busy = true →
    exec .keysched s = .next (s.withEngine { s.engine with err := true, errcode := 3#4 })) ∧
  (∀ s : State, s.engine.err = true → exec .keysched s = .next s) ∧
  (∃ t, exec .keysched (State.reset.withEngine { Engine.reset with key := 0x133457799BBCDFF1#64 }) = .next t ∧
    t.engine.status = 0x0000000000000201#64)

/-- The acceptance of ENCRYPT and DECRYPT (44_block_engine.md section 2): BUSY_VIOLATION is checked first, then NO_KEY;
DOUT, DIN, RK and KV keep their values. -/
def Obligations.BlockCommandsStartBlockOperation : Prop :=
  decode (.cmd 2#64) = .ok .encrypt ∧ decode (.cmd 3#64) = .ok .decrypt ∧
  (∀ s : State, s.engine.err = false → s.engine.busy = false → s.engine.kv = true →
    exec .encrypt s =
      .next (s.withEngine { s.engine with dir := false, done := false, phase := .blkInitial, round := 0#5 }) ∧
    exec .decrypt s =
      .next (s.withEngine { s.engine with dir := true, done := false, phase := .blkInitial, round := 0#5 })) ∧
  (∀ (s : State) (i : Instr), i = .encrypt ∨ i = .decrypt → s.engine.err = false →
    (s.engine.busy = true → exec i s = .next (s.withEngine { s.engine with err := true, errcode := 3#4 })) ∧
    (s.engine.busy = false → s.engine.kv = false →
      exec i s = .next (s.withEngine { s.engine with err := true, errcode := 2#4 }))) ∧
  (∀ (s : State) (i : Instr), i = .encrypt ∨ i = .decrypt → s.engine.err = true → exec i s = .next s)

/-! ## Errors -/

/-- R124: `RecordError` and `raise Error`. -/
def Obligations.RecordErrorKeepsFirstError : Prop :=
  ∀ (k : ErrorKind) (s : State),
    (s.engine.err = false → s.engine.recordError k = { s.engine with err := true, errcode := k.code }) ∧
    (s.engine.err = true → s.engine.recordError k = s.engine) ∧
    raiseError k s = .next (s.withEngine (s.engine.recordError k))

/-- R125: ERR and ERRCODE are sticky: no host transaction and no engine step clears or changes them once ERR is 1, and
RESET clears both. -/
def Obligations.ErrorsAreStickyUntilReset : Prop :=
  ∀ (base : Nat) (s t : State), s.engine.err = true → stepAt base s = .next t →
    (s.action base ≠ .resetEvent → t.engine.err = true ∧ t.engine.errcode = s.engine.errcode) ∧
    (s.action base = .resetEvent → t.engine.err = false ∧ t.engine.errcode = 0#4)

/-- R126: while ERR = 1 every write to CMD is ignored; reads and writes to KEY and DIN keep their rules; the engine
completes an operation already running (in a state of R34), and an engine that is IDLE starts none until RESET. -/
def Obligations.CommandsAreIgnoredAfterError : Prop :=
  ∀ s : State, s.engine.err = true →
    (∀ v : Word, exec (.wrCmd v) s = .next s) ∧
    (∀ i : Instr, i = .nop ∨ i = .keysched ∨ i = .encrypt ∨ i = .decrypt → exec i s = .next s) ∧
    (∀ v : Word, s.engine.busy = false →
      exec (.wrKey v) s = .next (s.withEngine { s.engine with key := v, kv := false }) ∧
      exec (.wrDin v) s = .next (s.withEngine { s.engine with din := v })) ∧
    (∀ v : Word, s.engine.busy = true → exec (.wrKey v) s = .next s ∧ exec (.wrDin v) s = .next s) ∧
    (∀ v : Word, exec (.rdStatus v) s = .next (s.observe s.engine.status) ∧
      exec (.rdDout v) s = .next (s.observe s.engine.dout) ∧ exec (.rdDin v) s = .next (s.observe s.engine.din)) ∧
    (s.engine.legal = true → s.engine.busy = true → ∃ n : Nat, n ≤ 18 ∧
      ∃ e, engineSteps n s.engine = some e ∧ e.phase = .idle) ∧
    (∀ (base : Nat) (t : State), s.engine.phase = .idle → stepAt base s = .next t → t.engine.phase = .idle)

/-- R127 and R129: the error an instruction raises is the first that holds in R127's list (`errorOf` is that list), its
whole effect is then the error record, and an instruction that raises none leaves the error record alone. -/
def Obligations.ChecksFollowTheirOrder : Prop :=
  ∀ (i : Instr) (s : State),
    (∀ k, errorOf s.engine i = some k → exec i s = .next (s.withEngine (s.engine.recordError k))) ∧
    (errorOf s.engine i = none →
      ∃ t, exec i s = .next t ∧ t.engine.err = s.engine.err ∧ t.engine.errcode = s.engine.errcode)

/-- The host's discipline is exactly what avoids errors: a step whose host keeps it records no error, and an instruction
that breaks it records one. The BUSY and NO_KEY hazards are those of 70_reset_and_hazards.md section 3; that a write to
DOUT, STATUS, R5, R6 or R7 or of a reserved command is an error, and that nothing else is, stands in 45_host_interface.md
section 1 and 60_exceptions.md section 2. -/
def Obligations.DisciplinedHostMakesNoError : Prop :=
  (∀ (base : Nat) (s t : State), s.engine.err = false → disciplinedAction s.engine (s.action base) = true →
    stepAt base s = .next t → t.engine.err = false) ∧
  (∀ (i : Instr) (s t : State), s.engine.err = false → disciplined s.engine i = false → exec i s = .next t →
    t.engine.err = true)

/-- "An error raised while an operation is in progress does not affect it" (R130): an engine step after the record of an
error that the hardware can report is the same step with the error recorded. -/
def Obligations.ErrorsDoNotDisturbEngineSteps : Prop :=
  ∀ (e : Engine) (k : ErrorKind), e.legal = true →
    k = .illegalCommand ∨ k = .noKey ∨ k = .busyViolation ∨ k = .illegalAccess →
    ∀ n : Nat, engineSteps n (e.recordError k) = (engineSteps n e).map fun e' => e'.recordError k

/-- "nothing a host writes changes that walk once it has started" (R105): while BUSY an instruction changes nothing of the
engine but, at most, the error record. -/
def Obligations.HostCannotDisturbRunningOperation : Prop :=
  ∀ (i : Instr) (s t : State), s.engine.busy = true → exec i s = .next t →
    t.engine = s.engine ∨ ∃ k, t.engine = s.engine.recordError k

/-! ## Engine steps -/

/-- R77: the KS_INITIAL step. -/
def Obligations.KsInitialStepLoadsHalves : Prop :=
  ∀ e : Engine, e.legal = true → e.phase = .ksInitial →
    engineStep e = some { e with
      c := (permute e.key tablePC1).extractLsb' 28 28
      d := (permute e.key tablePC1).extractLsb' 0 28
      round := 1#5
      phase := .ksRound } ∧
    (e.key = 0x133457799BBCDFF1#64 →
      ∃ e', engineStep e = some e' ∧ e'.c = 0xF0CCAAF#28 ∧ e'.d = 0x556678F#28)

/-- The KS_ROUND step of round i = ROUND (41_key_schedule.md section 3): C, D and RK[i], every other entry of RK kept;
KV and IDLE after round 16; the example. -/
def Obligations.KsRoundStepComputesRoundKey : Prop :=
  ∀ (e : Engine) (i : Fin 16), e.legal = true → e.phase = .ksRound → e.round.toNat = i.val + 1 →
    (∃ e', engineStep e = some e' ∧
      e'.c = rotl28 e.c (shiftAmount i) ∧ e'.d = rotl28 e.d (shiftAmount i) ∧
      e'.readRK i = permute (rotl28 e.c (shiftAmount i) ++ rotl28 e.d (shiftAmount i) : BitVec 56) tablePC2 ∧
      (∀ j : Fin 16, j ≠ i → e'.readRK j = e.readRK j) ∧
      (i.val + 1 = 16 → e'.phase = .idle ∧ e'.round = 0#5 ∧ e'.kv = true) ∧
      (i.val + 1 ≠ 16 → e'.phase = .ksRound ∧ e'.round.toNat = e.round.toNat + 1 ∧ e'.kv = e.kv) ∧
      e'.key = e.key ∧ e'.din = e.din ∧ e'.dout = e.dout ∧ e'.done = e.done ∧ e'.err = e.err ∧
      e'.errcode = e.errcode ∧ e'.dir = e.dir ∧ e'.l = e.l ∧ e'.r = e.r) ∧
    (e.c = 0xF0CCAAF#28 → e.d = 0x556678F#28 → e.round = 1#5 →
      ∃ e', engineStep e = some e' ∧ e'.c = 0xE19955F#28 ∧ e'.d = 0xAACCF1E#28 ∧ e'.readRK 0 = 0x1B02EFFC7072#48 ∧
        e'.round = 2#5)

/-- R101: the BLK_INITIAL step. -/
def Obligations.BlkInitialStepSplitsBlock : Prop :=
  ∀ e : Engine, e.legal = true → e.phase = .blkInitial →
    engineStep e = some { e with
      l := (permute e.din tableIP).extractLsb' 32 32
      r := (permute e.din tableIP).extractLsb' 0 32
      round := 1#5
      phase := .blkRound } ∧
    (e.din = 0x0123456789ABCDEF#64 →
      ∃ e', engineStep e = some e' ∧ e'.l = 0xCC00CCFF#32 ∧ e'.r = 0xF0AAF0AA#32)

/-- R102: the BLK_ROUND step of round i = ROUND. -/
def Obligations.BlkRoundStepIsFeistelRound : Prop :=
  ∀ (e : Engine) (i : Fin 16), e.legal = true → e.phase = .blkRound → e.round.toNat = i.val + 1 →
    (i.val + 1 = 16 → engineStep e = some { e with
      l := e.r
      r := e.l ^^^ feistel e.r (e.subkey i)
      phase := .blkFinal }) ∧
    (i.val + 1 ≠ 16 → ∃ round' : BitVec 5, round'.toNat = i.val + 2 ∧ engineStep e = some { e with
      l := e.r
      r := e.l ^^^ feistel e.r (e.subkey i)
      round := round' }) ∧
    (e.l = 0xCC00CCFF#32 → e.r = 0xF0AAF0AA#32 → e.dir = false → e.round = 1#5 → e.readRK 0 = 0x1B02EFFC7072#48 →
      ∃ e', engineStep e = some e' ∧ e'.l = 0xF0AAF0AA#32 ∧ e'.r = 0xEF4A6544#32 ∧ e'.round = 2#5)

/-- The BLK_FINAL step (44_block_engine.md section 3): DOUT takes R16 || L16, swapped, through FP; the example. -/
def Obligations.BlkFinalStepWritesDout : Prop :=
  ∀ e : Engine, e.legal = true → e.phase = .blkFinal →
    engineStep e = some { e with
      dout := permute (e.r ++ e.l : BitVec 64) tableFP
      done := true
      phase := .idle
      round := 0#5 } ∧
    (e.l = 0x43423234#32 → e.r = 0x0A4CD995#32 → ∃ e', engineStep e = some e' ∧ e'.dout = 0x85E813540F0AB405#64)

/-- R96: the subkey of round i is RK[i] when DIR = 0 and RK[17 - i] when DIR = 1; `readRK j` is RK[j.val + 1]. -/
def Obligations.SubkeyOrderFollowsDirection : Prop :=
  ∀ (e : Engine) (i j : Fin 16),
    (e.dir = false → e.subkey i = e.readRK i) ∧
    (e.dir = true → j.val + 1 = 17 - (i.val + 1) → e.subkey i = e.readRK j)

/-- R34's treatment of a state outside it, and R151: "In every state satisfying 10_state.md rule R34 with PHASE not IDLE,
exactly one engine step is enabled, so the engine never hangs". A legal state is never stuck: whatever event comes, it
answers a next state, or refuses an access that is no transaction. That "stuck" is a fault, and that the engine's
turn in IDLE is a step that changes nothing, are the model's choices (log entries 4 and 7). -/
def Obligations.OnlyStatesOutsideLegalityAreStuck : Prop :=
  (∀ s : State, s.engine.legal = false → engineStep s.engine = none ∧
    (s.engine.busy = true → engineTurn s = .fault .noEngineStep)) ∧
  (∀ e : Engine, e.legal = true → e.busy = true → ∃ e', engineStep e = some e') ∧
  (∀ (base : Nat) (s : State), s.engine.legal = true →
    (∃ t, stepAt base s = .next t) ∨ s.action base = .reject .notATransaction)

/-- R150: the step counts of KEYSCHED (17), ENCRYPT and DECRYPT (18), with the walk of PHASE and ROUND: after n of them
the engine is BUSY in the phase and round the walk names, and IDLE after the last. -/
def Obligations.OperationsTakeTheirStepCounts : Prop :=
  (∀ e : Engine, e.legal = true → e.phase = .ksInitial →
    (∀ n : Nat, 1 ≤ n → n ≤ 16 → ∃ e', engineSteps n e = some e' ∧ e'.phase = .ksRound ∧ e'.round.toNat = n) ∧
    ∃ e', engineSteps 17 e = some e' ∧ e'.phase = .idle) ∧
  (∀ e : Engine, e.legal = true → e.phase = .blkInitial →
    (∀ n : Nat, 1 ≤ n → n ≤ 16 → ∃ e', engineSteps n e = some e' ∧ e'.phase = .blkRound ∧ e'.round.toNat = n) ∧
    (∃ e', engineSteps 17 e = some e' ∧ e'.phase = .blkFinal ∧ e'.round.toNat = 16) ∧
    ∃ e', engineSteps 18 e = some e' ∧ e'.phase = .idle)

/-! ## Invariants -/

/-- R34: every step keeps the well-formedness of the engine state. -/
def Obligations.EveryStepKeepsLegality : Prop :=
  ∀ (base : Nat) (s t : State), s.engine.legal = true → stepAt base s = .next t → t.engine.legal = true

/-- R25: "While KV is 1, RK[1..16] is the RoundKeySet the source's key schedule gives for the current KEY": every step
keeps it, together with what a key schedule in progress has computed so far. -/
def Obligations.EveryStepKeepsRoundKeysOfKey : Prop :=
  ∀ (base : Nat) (s t : State), s.engine.legal = true → s.engine.KeyScheduleInv → stepAt base s = .next t →
    t.engine.KeyScheduleInv

/-- R29: L and R are "L_i and R_i of the source after round i" of a block operation in progress: every step keeps it. -/
def Obligations.EveryStepKeepsBlockProgress : Prop :=
  ∀ (base : Nat) (s t : State), s.engine.legal = true → s.engine.BlockInv → stepAt base s = .next t →
    t.engine.BlockInv

/-- The reset state meets the three invariants. -/
def Obligations.ResetMeetsEveryInvariant : Prop :=
  State.reset.engine.legal = true ∧ State.reset.engine.KeyScheduleInv ∧ State.reset.engine.BlockInv

/-! ## The engine computes the cipher -/

/-- R78 (what the 17 steps add up to) and R74: from KS_INITIAL, seventeen engine steps leave RK = GenerateRoundKeys(KEY),
KV = 1, C16 and D16 in C and D, and change nothing else. -/
def Obligations.KeyScheduleComputesRoundKeys : Prop :=
  ∀ e : Engine, e.legal = true → e.phase = .ksInitial →
    engineSteps 17 e = some { e with
      c := (keyHalvesAfter e.key 16).1
      d := (keyHalvesAfter e.key 16).2
      rk := generateRoundKeys e.key
      kv := true
      phase := .idle
      round := 0#5 }

/-- R103 (what the 18 steps add up to), R94 and R95: from BLK_INITIAL, eighteen engine steps leave DOUT = Encrypt(DIN,
RK) or Decrypt(DIN, RK) by DIR, DONE = 1, and L16 and R16 in L and R, and change nothing else. -/
def Obligations.BlockOperationComputesCipher : Prop :=
  ∀ e : Engine, e.legal = true → e.phase = .blkInitial →
    engineSteps 18 e = some { e with
      l := (e.halvesAfter 16).1
      r := (e.halvesAfter 16).2
      dout := if e.dir then decryptBlock e.din e.rk else encryptBlock e.din e.rk
      done := true
      phase := .idle
      round := 0#5 }

/-- R97, the correctness contract of the two block functions, with any sixteen round keys and in both orders. -/
def Obligations.DecryptInvertsEncrypt : Prop :=
  ∀ (p : Word) (k : RoundKeySet), decryptBlock (encryptBlock p k) k = p ∧ encryptBlock (decryptBlock p k) k = p

/-- R119: the transaction sequences that stand for the source's calls, from any idle engine without error: key k, block p,
direction dir; the read of DOUT returns the cipher result. The engine steps that the host's polls wait for stand in the
agenda, and the value read in `reads`, which are the model's (log entries 1 and 3). -/
def Obligations.HostSequenceGivesCipherResult : Prop :=
  ∀ (s : State) (k p : Word) (dir : Bool), s.engine.legal = true → s.engine.busy = false → s.engine.err = false →
    s.agenda =
      [.word (.txn (0x8#4 ++ k)), .word (.cmd 1#64)] ++ List.replicate 17 Event.engineStep ++
      [.word (.txn (0x9#4 ++ p)), .word (.cmd (if dir then 3#64 else 2#64))] ++ List.replicate 18 Event.engineStep ++
      [.word (.txn 0x20000000000000000#68)] →
    ∃ t, core.run 40 s = .next t ∧ t.reads = s.reads ++ [blockResult dir p (generateRoundKeys k)] ∧
      t.engine.rk = generateRoundKeys k ∧ t.engine.kv = true ∧ t.engine.done = true ∧ t.engine.err = false ∧
      t.engine.phase = .idle ∧ t.agenda = []

/-- R97 "in the hardware": ENCRYPT of DIN, the read of DOUT, and, with no KEY write or KEYSCHED in between, DECRYPT of the
value read leave DOUT = the first DIN. The order of events is the agenda, and the value read stands in `reads`, which are
the model's (log entries 1 and 3). -/
def Obligations.HardwareRoundTrip : Prop :=
  ∀ (s : State) (c : Word), s.engine.legal = true → s.engine.busy = false → s.engine.err = false → s.engine.kv = true →
    s.agenda =
      [.word (.cmd 2#64)] ++ List.replicate 18 Event.engineStep ++
      [.word (.txn 0x20000000000000000#68), .word (.txn (0x9#4 ++ c)), .word (.cmd 3#64)] ++
      List.replicate 18 Event.engineStep →
    (∃ t, core.run 20 s = .next t ∧ t.reads = s.reads ++ [encryptBlock s.engine.din s.engine.rk]) ∧
    (c = encryptBlock s.engine.din s.engine.rk → ∃ t, core.run 40 s = .next t ∧ t.engine.dout = s.engine.din)

/-- A host that only polls (reads and NOPs, issued as words or as platform accesses of the engine `core` runs, in any
number, at any places among the engine steps) does not change what the engine computes: the end state depends on the
number of engine steps alone, and eighteen are enough to be IDLE (20_memory.md rules R44 to R46; R152). The order of
events is the agenda, and an engine step in IDLE changes nothing: both are the model's (log entries 1 and 7). -/
def Obligations.PollingDoesNotChangeTheOutcome : Prop :=
  ∀ s : State, s.engine.legal = true → (∀ ev ∈ s.agenda, waits (Config.desBase 0) ev = true) →
    ∃ t, core.run s.agenda.length s = .next t ∧ t.agenda = [] ∧
      t.engine = settle (s.agenda.count .engineStep) s.engine ∧
      (18 ≤ s.agenda.count .engineStep → t.engine = settle 18 s.engine ∧ t.engine.phase = .idle)

/-- R98 and R147: the output block depends only on the input block, the round keys and the direction, whatever else the
two engine states hold; and a second operation without a write of DIN gives the same DOUT, DIN being unchanged. -/
def Obligations.SameBlockGivesSameOutput : Prop :=
  (∀ e e' t t' : Engine, e.legal = true → e'.legal = true → e.phase = .blkInitial → e'.phase = .blkInitial →
    e.din = e'.din → e.rk = e'.rk → e.dir = e'.dir → engineSteps 18 e = some t → engineSteps 18 e' = some t' →
    t.dout = t'.dout) ∧
  (∀ e t t' : Engine, e.legal = true → e.phase = .blkInitial → engineSteps 18 e = some t →
    engineSteps 18 { t with done := false, phase := .blkInitial, round := 0#5 } = some t' →
    t.din = e.din ∧ t'.dout = t.dout)

/-! ## The cipher's parts -/

/-- R66: FP is the exact inverse of IP, as functions and as tables. -/
def Obligations.FinalPermutationInvertsInitial : Prop :=
  (∀ v : Word, permute (permute v tableIP) tableFP = v ∧ permute (permute v tableFP) tableIP = v) ∧
  (∀ j : Nat, 1 ≤ j → j ≤ 64 → tableFP.entry (tableIP.entry j) = j ∧ tableIP.entry (tableFP.entry j) = j)

/-- The permutation primitive (40_permutation.md section 1): output DES position j is input DES position T[j], which the
table's own check keeps in 1..N. -/
def Obligations.PermuteTakesTablePositions : Prop :=
  ∀ (n m : Nat) (v : BitVec n) (t : PermTable n m) (j : Nat), 1 ≤ j → j ≤ m →
    desPos (permute v t) j = desPos v (t.entry j) ∧ 1 ≤ t.entry j ∧ t.entry j ≤ n

/-- R73: result position p of rotl28(x, s) is x's position ((p - 1 + s) mod 28) + 1, and the two constant values. -/
def Obligations.RotationIsCircular : Prop :=
  ∀ (x : KeyHalf) (s : Nat), s = 1 ∨ s = 2 →
    (∀ p : Nat, 1 ≤ p → p ≤ 28 → desPos (rotl28 x s) p = desPos x ((p - 1 + s) % 28 + 1)) ∧
    rotl28 0x0000000#28 s = 0x0000000#28 ∧ rotl28 0xFFFFFFF#28 s = 0xFFFFFFF#28

/-- R72: the rotation amounts, their sum, and C16 = C0, D16 = D0 for every key. -/
def Obligations.KeyHalvesReturnAfterSixteenRounds : Prop :=
  (∀ i : Fin 16, shiftAmount i = if i.val + 1 = 1 ∨ i.val + 1 = 2 ∨ i.val + 1 = 9 ∨ i.val + 1 = 16 then 1 else 2) ∧
  shiftTable.toList = [1, 1, 2, 2, 2, 2, 2, 2, 1, 2, 2, 2, 2, 2, 2, 1] ∧ shiftTable.toList.sum = 28 ∧
  ∀ key : Word, keyHalvesAfter key 16 = keyHalvesAfter key 0

/-- R70: two raw keys that differ only in parity bits (DES positions 8, 16, ..., 64) give the same RK[1..16] and the same
cipher. -/
def Obligations.ParityBitsReachNoRoundKey : Prop :=
  ∀ k k' : Word, (∀ p : Nat, 1 ≤ p → p ≤ 64 → p % 8 ≠ 0 → desPos k p = desPos k' p) →
    generateRoundKeys k = generateRoundKeys k' ∧
    ∀ block : Word, encryptBlock block (generateRoundKeys k) = encryptBlock block (generateRoundKeys k') ∧
      decryptBlock block (generateRoundKeys k) = decryptBlock block (generateRoundKeys k')

/-- The checks the spec gives on its tables: R91 (each row of an S-box a permutation of 0..15; a one-bit change of the
input changes at least two output bits), and the shapes of E (sixteen positions twice, sixteen once), of PC1 (the
positions that are no multiple of 8) and of PC2 (distinct; the first 24 from C, the last 24 from D). -/
def Obligations.FixedTablesPassTheirChecks : Prop :=
  (∀ (j : Fin 8) (row : Fin 4), (sboxes[j][row].toList.map BitVec.toNat).Perm (List.range 16)) ∧
  (∀ (j : Fin 8) (x : BitVec 6) (b : Fin 6),
    2 ≤ ((List.range 4).filter fun i =>
      (sboxLookup j x ^^^ sboxLookup j (x ^^^ (1#6 <<< b.val))).getLsbD i).length) ∧
  (∀ p : Fin 32, tableE.entries.count (p.val + 1) =
    if p.val + 1 ∈ [1, 4, 5, 8, 9, 12, 13, 16, 17, 20, 21, 24, 25, 28, 29, 32] then 2 else 1) ∧
  tablePC1.entries.Perm ((List.range 65).filter fun p => p % 8 ≠ 0) ∧
  tablePC2.entries.Nodup ∧ (∀ p ∈ tablePC2.entries.take 24, p ≤ 28) ∧ (∀ p ∈ tablePC2.entries.drop 24, 29 ≤ p)

/-- R89: chunk j (0..7) is DES positions 6j+1 .. 6j+6 of the input and goes to S(j+1), whose output is DES positions
4j+1 .. 4j+4 of the result; with the two corner cases and the example. -/
def Obligations.SubstitutionIsChunkwise : Prop :=
  (∀ (x : BitVec 48) (j : Fin 8),
    (sboxSubstitute x).extractLsb' (28 - 4 * j.val) 4 = sboxLookup j (x.extractLsb' (42 - 6 * j.val) 6) ∧
    (∀ i : Nat, 1 ≤ i → i ≤ 6 → desPos (x.extractLsb' (42 - 6 * j.val) 6) i = desPos x (6 * j.val + i)) ∧
    (∀ i : Nat, 1 ≤ i → i ≤ 4 →
      desPos (sboxSubstitute x) (4 * j.val + i) = desPos (sboxLookup j (x.extractLsb' (42 - 6 * j.val) 6)) i)) ∧
  sboxSubstitute 0x000000000000#48 = 0xEFA72C4D#32 ∧ sboxSubstitute 0xFFFFFFFFFFFF#48 = 0xD9CE3DCB#32 ∧
  sboxSubstitute 0x6117BA866527#48 = 0x5C82B597#32

/-- R92: the round function is its four steps, depends on r and k only through `permute(r, 32, E) ^ k`, and has the
values of the corner cases and the example. -/
def Obligations.FeistelComposesItsFourSteps : Prop :=
  (∀ (r : Half) (k : RoundKey), feistel r k = permute (sboxSubstitute (permute r tableE ^^^ k)) tableP) ∧
  (∀ (r r' : Half) (k k' : RoundKey), permute r tableE ^^^ k = permute r' tableE ^^^ k' → feistel r k = feistel r' k') ∧
  feistel 0x00000000#32 0x000000000000#48 = 0xD8D8DBBC#32 ∧ feistel 0xFFFFFFFF#32 0x000000000000#48 = 0x38DBF9CB#32 ∧
  feistel 0x00000000#32 0xFFFFFFFFFFFF#48 = 0x38DBF9CB#32 ∧ feistel 0xF0AAF0AA#32 0x1B02EFFC7072#48 = 0x234AA9BB#32

/-- Sixteen equal subkeys make encryption and decryption the same function, its own inverse; and the four keys of
41_key_schedule.md rule R74's corner case give sixteen equal subkeys. -/
def Obligations.EqualSubkeysMakeBlockSelfInverse : Prop :=
  (∀ k : RoundKeySet, (∀ i j : Fin 16, k[i] = k[j]) →
    ∀ block : Word, encryptBlock block k = decryptBlock block k ∧ encryptBlock (encryptBlock block k) k = block) ∧
  (∀ key ∈ [0x0101010101010101#64, 0xFEFEFEFEFEFEFEFE#64, 0xE0E0E0E0F1F1F1F1#64, 0x1F1F1F1F0E0E0E0E#64],
    ∀ i : Fin 16, (generateRoundKeys key)[i] = (generateRoundKeys key)[(0 : Fin 16)])

/-- The complementation property (95_test_vectors.md V8.6; 93_implementation_defined.md G5):
Encrypt(~p, ~k) = ~Encrypt(p, k). -/
def Obligations.ComplementKeyComplementsCipher : Prop :=
  ∀ p k : Word,
    encryptBlock (~~~p) (generateRoundKeys (~~~k)) = ~~~ (encryptBlock p (generateRoundKeys k))

/-- R41: byte k of a block occupies bits [63-8k : 56-8k], "the most significant bit of each byte is the lower-numbered
DES position", and the value is `B0 || B1 || ... || B7` of its bytes. -/
def Obligations.BlocksAreBigEndian : Prop :=
  (∀ (b : Vector Byte 8) (k : Fin 8),
    (wordOfBytes b).extractLsb' (56 - 8 * k.val) 8 = b[k] ∧
    ∀ j : Nat, 1 ≤ j → j ≤ 8 → desPos (wordOfBytes b) (8 * k.val + j) = desPos b[k] j) ∧
  (∀ v : Word, wordOfBytes (bytesOfWord v) = v) ∧
  wordOfBytes #v[0x01#8, 0x23#8, 0x45#8, 0x67#8, 0x89#8, 0xAB#8, 0xCD#8, 0xEF#8] = 0x0123456789ABCDEF#64

/-! ## Encoding -/

/-- Decode and encode agree in both directions, for every instruction with every operand and for every word that is an
instruction: no bit of an encoding is dropped. A read keeps its ignored DATA as an operand, and a command is an
instruction of its own, as the model has them (log entries 6 and 8). -/
def Obligations.DecodeAndEncodeAgree : Prop :=
  (∀ i : Instr, decode (encode i) = .ok i) ∧ (∀ (w : CodeWord) (i : Instr), decode w = .ok i → encode i = w)

/-- "every one of the 16 values of (W, REG) is one row of this table" (R54), and a command value is one row or none (R56,
R57): a word that decodes fits the row of its instruction and of no instruction with another row; a word that does not
decode fits no row; and every transaction word decodes. -/
def Obligations.EveryWordFitsOneRow : Prop :=
  (∀ (w : CodeWord) (i : Instr), decode w = .ok i →
    (opcodeRow i).fits w = true ∧ ∀ j : Instr, (opcodeRow j).fits w = true → opcodeRow j = opcodeRow i) ∧
  (∀ (w : CodeWord) (x : DecodeError), decode w = .error x → ∀ j : Instr, (opcodeRow j).fits w = false) ∧
  (∀ w : TxnWord, ∃ i : Instr, decode (.txn w) = .ok i)

/-- Words written out from the spec's encodings decode to the instructions they stand for. The numbering by which
`decodeTableWord` takes them is the model's (log entry 9): a length of up to 64 bits is a CMD value, a longer one (72, the
spec's 68 in whole bytes) a TXN word. -/
def Obligations.OpcodeWordsDecode : Prop :=
  decodeTableWord 72 0x8133457799BBCDFF1 = some (.wrKey 0x133457799BBCDFF1#64) ∧
  decodeTableWord 72 0x90123456789ABCDEF = some (.wrDin 0x0123456789ABCDEF#64) ∧
  decodeTableWord 72 0xA0000000000000005 = some (.wrDout 5#64) ∧
  decodeTableWord 72 0xB0000000000000101 = some (.wrCmd 0x101#64) ∧
  decodeTableWord 72 0x20000000000000000 = some (.rdDout 0#64) ∧
  decodeTableWord 72 0x40000000000000000 = some (.rdStatus 0#64) ∧
  decodeTableWord 64 1 = some .keysched ∧ decodeTableWord 64 3 = some .decrypt ∧ decodeTableWord 64 4 = none

/-- A step runs the decoded instruction: where the next event is an instruction word, the step takes the event from the
agenda and is then `exec` of what the word decodes to; an engine step is the engine's turn, RESET the reset event. The
agenda, that an empty one leaves the engine its turn, and the numbering of the table's words are the model's (log entries
1, 2, 7 and 9). -/
def Obligations.StepRunsTheDecodedInstruction : Prop :=
  (∀ s : State, step s = stepAt (Config.desBase 0) s) ∧
  (∀ (base : Nat) (s : State) (rest : List Event) (w : CodeWord) (i : Instr),
    s.agenda = .word w :: rest → decode w = .ok i → stepAt base s = exec i { s with agenda := rest }) ∧
  (∀ (base : Nat) (s : State) (rest : List Event), s.agenda = .engineStep :: rest →
    stepAt base s = engineTurn { s with agenda := rest }) ∧
  (∀ (base : Nat) (s : State) (rest : List Event), s.agenda = .reset :: rest →
    stepAt base s = resetEvent { s with agenda := rest }) ∧
  (∀ (base : Nat) (s : State), s.agenda = [] → stepAt base s = engineTurn s) ∧
  (∀ (s : State) (e : Engine), engineStep s.engine = some e → engineTurn s = .next (s.withEngine e)) ∧
  (∀ s : State, s.engine.phase = .idle → engineTurn s = .next s) ∧
  (∀ (s : State) (nbits w : Nat) (i : Instr), decodeTableWord nbits w = some i →
    step (s.withFetchWord nbits w) = exec i s)

/-- R52: a command value "is the DATA of a write transaction to register index 3": as an event it is the transaction word
`0xB` followed by the value. The events are those of the agenda, which is the model's (log entries 1 and 8). -/
def Obligations.CommandWordIsItsWriteTransaction : Prop :=
  ∀ (base : Nat) (s : State) (v : Word),
    stepAt base { s with agenda := .word (.cmd v) :: s.agenda } =
      stepAt base { s with agenda := .word (.txn (0xB#4 ++ v)) :: s.agenda }

/-- R38 and R39: an 8-byte access at `DES_BASE + 8*idx` is the host transaction of register idx; an access of another size
or at another address is refused; `DES_BASE` is a multiple of 64. The next event is that of the agenda, which is the
model's (log entry 1). -/
def Obligations.PlatformAccessesReachTheirRegister : Prop :=
  (∀ k : Nat, Config.desBase k % 64 = 0) ∧
  (∀ (base : Nat) (s : State) (idx : BitVec 3) (v : Word),
    (s.nextEvent = .access { write := true, addr := base + 8 * idx.toNat, size := 8, data := v } →
      stepAt base s = exec (writeInstr (.ofBits idx) v) s.popEvent) ∧
    (s.nextEvent = .access { write := false, addr := base + 8 * idx.toNat, size := 8, data := v } →
      stepAt base s = exec (readInstr (.ofBits idx) 0#64) s.popEvent)) ∧
  (∀ (base : Nat) (s : State) (a : Access), s.nextEvent = .access a →
    a.size ≠ 8 ∨ (∀ idx : BitVec 3, a.addr ≠ base + 8 * idx.toNat) → stepAt base s = .refused .notATransaction)

/-- The pseudo-instructions of R60 and their expansions, with the rules of R59 that a literal of more than 16 digits is
refused and that register names are case-insensitive: the eight names, and any two spellings of a name that differ only in
case. How a line is cut into words and which letters a mnemonic has are the model's (log entry 14). -/
def Obligations.PseudoInstructionsExpand : Prop :=
  Asm.assembleLine "NOP".toList = some [.transact 0xB0000000000000000#68] ∧
  Asm.assembleLine "KEYSCHED".toList = some [.transact 0xB0000000000000001#68] ∧
  Asm.assembleLine "ENCRYPT".toList = some [.transact 0xB0000000000000002#68] ∧
  Asm.assembleLine "DECRYPT".toList = some [.transact 0xB0000000000000003#68] ∧
  Asm.assembleLine "WAIT".toList = some [.transact 0x40000000000000000#68, .bnz 0 1] ∧
  Asm.assembleLine "RD status".toList = some [.transact 0x40000000000000000#68] ∧
  Asm.assembleLine "SETKEY 0x133457799BBCDFF1".toList = some (Asm.setKey 0x133457799BBCDFF1#64) ∧
  Asm.assembleLine "ENC 0x0123456789ABCDEF".toList = some (Asm.processBlock 2#64 0x0123456789ABCDEF#64) ∧
  Asm.assembleLine "DEC 0x0123456789ABCDEF".toList = some (Asm.processBlock 3#64 0x0123456789ABCDEF#64) ∧
  ["KEY", "DIN", "DOUT", "CMD", "STATUS", "R5", "R6", "R7"].map (fun name => Asm.register name.toList) =
    [some 0#3, some 1#3, some 2#3, some 3#3, some 4#3, some 5#3, some 6#3, some 7#3] ∧
  (∀ name name' : List Char, name.map Char.toUpper = name'.map Char.toUpper → Asm.register name = Asm.register name') ∧
  (∀ k : Word, Asm.setKey k =
    [.transact (0x8#4 ++ k), .transact 0xB0000000000000001#68, .transact 0x40000000000000000#68, .bnz 0 1]) ∧
  (∀ b : Word, Asm.processBlock 2#64 b = [.transact (0x9#4 ++ b), .transact 0xB0000000000000002#68,
    .transact 0x40000000000000000#68, .bnz 0 1, .transact 0x20000000000000000#68]) ∧
  (∀ b : Word, Asm.processBlock 3#64 b = [.transact (0x9#4 ++ b), .transact 0xB0000000000000003#68,
    .transact 0x40000000000000000#68, .bnz 0 1, .transact 0x20000000000000000#68]) ∧
  (∀ digits : List Char, 16 < digits.length → Asm.immediate ('0' :: 'x' :: digits) = none) ∧
  (∀ (reg : BitVec 3) (imm : Word), (decodeTxn (Asm.assembleWrite reg imm)).wf = true ∧
    (decodeTxn (Asm.assembleRead reg)).wf = true)

/-! ## Who writes what -/

/-- R18, R19, R25: KEY changes only by an accepted WR KEY, DIN only by an accepted WR DIN, KV only by WR KEY or the
acceptance of KEYSCHED (to 0) or the last KS_ROUND step (to 1); each also by RESET. -/
def Obligations.OnlyAcceptedWritesChangeOperands : Prop :=
  ∀ (base : Nat) (s t : State), stepAt base s = .next t → s.action base ≠ .resetEvent →
    (t.engine.key ≠ s.engine.key → s.engine.phase = .idle ∧ s.action base = .execute (.wrKey t.engine.key)) ∧
    (t.engine.din ≠ s.engine.din → s.engine.phase = .idle ∧ s.action base = .execute (.wrDin t.engine.din)) ∧
    (t.engine.kv ≠ s.engine.kv →
      (t.engine.kv = false ∧ s.engine.phase = .idle ∧
        ((∃ v, s.action base = .execute (.wrKey v)) ∨
          s.action base = .execute .keysched ∨ s.action base = .execute (.wrCmd 1#64))) ∨
      (t.engine.kv = true ∧ s.action base = .engineTurn ∧ s.engine.phase = .ksRound ∧ s.engine.round = 16#5))

/-- R20, R24, R27, R29, R30, R31: DOUT changes only in the BLK_FINAL step; DONE there (to 1) or when a block command is
accepted (to 0), and DIR only then; L and R change only in BLK_INITIAL and BLK_ROUND steps, C and D only in KS_INITIAL and
KS_ROUND steps, RK[i] only in the KS_ROUND step of round i; each also by RESET. -/
def Obligations.OnlyEngineStepsChangeResults : Prop :=
  ∀ (base : Nat) (s t : State), stepAt base s = .next t → s.action base ≠ .resetEvent →
    (t.engine.dout ≠ s.engine.dout → s.action base = .engineTurn ∧ s.engine.phase = .blkFinal) ∧
    (t.engine.done ≠ s.engine.done →
      (t.engine.done = true ∧ s.action base = .engineTurn ∧ s.engine.phase = .blkFinal) ∨
      (t.engine.done = false ∧ t.engine.phase = .blkInitial ∧ s.engine.phase = .idle)) ∧
    (t.engine.dir ≠ s.engine.dir → t.engine.phase = .blkInitial ∧ s.engine.phase = .idle) ∧
    (t.engine.l ≠ s.engine.l ∨ t.engine.r ≠ s.engine.r →
      s.action base = .engineTurn ∧ (s.engine.phase = .blkInitial ∨ s.engine.phase = .blkRound)) ∧
    (t.engine.c ≠ s.engine.c ∨ t.engine.d ≠ s.engine.d →
      s.action base = .engineTurn ∧ (s.engine.phase = .ksInitial ∨ s.engine.phase = .ksRound)) ∧
    (∀ i : Fin 16, t.engine.readRK i ≠ s.engine.readRK i →
      s.action base = .engineTurn ∧ s.engine.phase = .ksRound ∧ s.engine.round.toNat = i.val + 1)

/-- Every instruction completes, in every state: no stop, no event consumed beyond its own. R44 and R129's frame: what no
host transaction ever writes (R20, R29, R30, R31: DOUT, L, R, C, D, RK) keeps its value, and an instruction that shows the
host a value changes nothing of the engine. -/
def Obligations.EveryInstructionCompletes : Prop :=
  ∀ (i : Instr) (s : State), ∃ t, exec i s = .next t ∧ t.agenda = s.agenda ∧
    t.engine.dout = s.engine.dout ∧ t.engine.l = s.engine.l ∧ t.engine.r = s.engine.r ∧ t.engine.c = s.engine.c ∧
    t.engine.d = s.engine.d ∧ t.engine.rk = s.engine.rk ∧
    (t.reads = s.reads ∨ ∃ idx : RegIndex, t = s.observe (hostRead s.engine idx)) ∧
    (observes i = true → t.engine = s.engine)

/-- Key material is not observable (60_exceptions.md section 5, R135, R139): what a host transaction shows, and what the
host can see after it, depends only on what the host could see before (DIN, DOUT, STATUS), whatever KEY, L, R, C, D and
RK hold in the two states. -/
def Obligations.KeyMaterialIsNotObservable : Prop :=
  ∀ (i : Instr) (s s' t t' : State), s.engine.hostView = s'.engine.hostView → s.reads = s'.reads →
    exec i s = .next t → exec i s' = .next t' → t.reads = t'.reads ∧ t.engine.hostView = t'.engine.hostView

/-- R138: a step of one instance leaves every other instance's state unchanged, and is the step that instance takes alone
at its own `DES_BASE`. -/
def Obligations.InstancesShareNothing : Prop :=
  ∀ (k : Nat) (p q : Platform), Platform.step k p = .next q →
    q.engines.length = p.engines.length ∧ (∀ j : Nat, j ≠ k → q.engines[j]? = p.engines[j]?) ∧
    ∃ s t : State, p.engines[k]? = some s ∧ stepAt (Config.desBase k) s = .next t ∧ q.engines[k]? = some t
end

