-- ==== Sys2Proof/Laws/Decode.lean ====
section
/-! SUPPORT. The fields of an encoded transaction word: the lemmas that replace unfolding its concatenation. -/

namespace Sys2Proof

variable (digit : BitVec 4) (data : Word)

/-- Bit i of a transaction word: DATA below bit 64, the first digit from there. -/
theorem getLsbD_encodeTxn (i : Nat) :
    (encodeTxn digit data).getLsbD i = if i < 64 then data.getLsbD i else digit.getLsbD (i - 64) :=
  BitVec.getLsbD_append

@[simp] theorem txnData_encodeTxn : txnData (encodeTxn digit data) = data := by
  apply BitVec.eq_of_getLsbD_eq
  intro i hi
  rw [txnData, BitVec.getLsbD_extractLsb', getLsbD_encodeTxn]
  simp [hi]

@[simp] theorem txnW_encodeTxn : txnW (encodeTxn digit data) = digit.getLsbD 3 := by
  rw [txnW, getLsbD_encodeTxn]
  simp

@[simp] theorem txnReg_encodeTxn : txnReg (encodeTxn digit data) = .ofBits (digit.extractLsb' 0 3) := by
  have h : (encodeTxn digit data).extractLsb' 64 3 = digit.extractLsb' 0 3 := by
    apply BitVec.eq_of_getLsbD_eq
    intro i hi
    rw [BitVec.getLsbD_extractLsb', getLsbD_encodeTxn, BitVec.getLsbD_extractLsb']
    simp
  rw [txnReg, h]

/-- A transaction word is its first digit followed by its DATA. -/
theorem encodeTxn_fields (w : TxnWord) : encodeTxn (w.extractLsb' 64 4) (txnData w) = w := by
  apply BitVec.eq_of_getLsbD_eq
  intro i hi
  rw [getLsbD_encodeTxn, txnData, BitVec.getLsbD_extractLsb', BitVec.getLsbD_extractLsb']
  by_cases h : i < 64
  · simp [h]
  · have h4 : i - 64 < 4 := by omega
    have : 64 + (i - 64) = i := by omega
    simp [h, h4, this]

/-- The instruction of a transaction word, by its first digit. -/
theorem decodeTxn_encodeTxn : decodeTxn (encodeTxn digit data) =
    if digit.getLsbD 3 then writeInstr (.ofBits (digit.extractLsb' 0 3)) data
    else readInstr (.ofBits (digit.extractLsb' 0 3)) data := by
  simp only [decodeTxn, txnW_encodeTxn, txnReg_encodeTxn, txnData_encodeTxn]

end Sys2Proof
end

