-- ==== Sys2Proof/Laws/Flags.lean ====
section
/-! SUPPORT. The STATUS word bit by bit: the lemma that replaces unfolding its concatenation. -/

namespace Sys2Proof.Machine

/-- Bit i of STATUS, by the fields from the lowest up. -/
theorem getLsbD_status (e : Engine) (i : Nat) : e.status.getLsbD i =
    (decide (i < 64) &&
    if i < 1 then (BitVec.ofBool e.busy).getLsbD i
    else if i - 1 < 1 then (BitVec.ofBool e.done).getLsbD (i - 1)
    else if i - 1 - 1 < 1 then (BitVec.ofBool e.kv).getLsbD (i - 1 - 1)
    else if i - 1 - 1 - 1 < 1 then (BitVec.ofBool e.err).getLsbD (i - 1 - 1 - 1)
    else if i - 1 - 1 - 1 - 1 < 4 then e.errcode.getLsbD (i - 1 - 1 - 1 - 1)
    else if i - 1 - 1 - 1 - 1 - 4 < 1 then (BitVec.ofBool e.dir).getLsbD (i - 1 - 1 - 1 - 1 - 4)
    else if i - 1 - 1 - 1 - 1 - 4 - 1 < 3 then e.phase.code.getLsbD (i - 1 - 1 - 1 - 1 - 4 - 1)
    else e.round.getLsbD (i - 1 - 1 - 1 - 1 - 4 - 1 - 3)) := by
  unfold Engine.status
  rw [BitVec.getLsbD_setWidth]
  repeat rw [BitVec.getLsbD_append]

end Sys2Proof.Machine
end

