-- ==== Sys2Proof/Laws/PerInstr.lean ====
section
/-! SUPPORT. The family of statements made per instruction: an instruction's word fits its opcode-table row. -/

namespace Sys2Proof.Laws

/-- A transaction word fits the row of its first digit, whatever its DATA. -/
theorem txnRow_fits (digit : BitVec 4) (data : Word) : (txnRow digit).fits (.txn (encodeTxn digit data)) = true := by
  have hmask : encodeTxn 0xF#4 0#64 = BitVec.allOnes 4 ++ 0#64 := rfl
  simp only [txnRow, OpcodeRow.fits, beq_iff_eq, encodeTxn] at hmask ⊢
  apply BitVec.eq_of_getLsbD_eq
  intro i hi
  simp only [BitVec.getLsbD_and, BitVec.getLsbD_append]
  by_cases h : i < 64
  · simp [h]
  · have : i = 64 ∨ i = 65 ∨ i = 66 ∨ i = 67 := by omega
    obtain rfl | rfl | rfl | rfl := this <;> simp

namespace EncodingFitsTable

/-- The word an instruction encodes to fits the row of spec/opcode_table.json the instruction stands for. -/
def Statement (i : Instr) : Prop := (opcodeRow i).fits (encode i) = true

theorem wrKey (data : Word) : Statement (.wrKey data) := txnRow_fits _ data
theorem wrDin (data : Word) : Statement (.wrDin data) := txnRow_fits _ data
theorem wrDout (data : Word) : Statement (.wrDout data) := txnRow_fits _ data
theorem wrCmd (data : Word) : Statement (.wrCmd data) := txnRow_fits _ data
theorem wrStatus (data : Word) : Statement (.wrStatus data) := txnRow_fits _ data
theorem wrR5 (data : Word) : Statement (.wrR5 data) := txnRow_fits _ data
theorem wrR6 (data : Word) : Statement (.wrR6 data) := txnRow_fits _ data
theorem wrR7 (data : Word) : Statement (.wrR7 data) := txnRow_fits _ data
theorem rdKey (data : Word) : Statement (.rdKey data) := txnRow_fits _ data
theorem rdDin (data : Word) : Statement (.rdDin data) := txnRow_fits _ data
theorem rdDout (data : Word) : Statement (.rdDout data) := txnRow_fits _ data
theorem rdCmd (data : Word) : Statement (.rdCmd data) := txnRow_fits _ data
theorem rdStatus (data : Word) : Statement (.rdStatus data) := txnRow_fits _ data
theorem rdR5 (data : Word) : Statement (.rdR5 data) := txnRow_fits _ data
theorem rdR6 (data : Word) : Statement (.rdR6 data) := txnRow_fits _ data
theorem rdR7 (data : Word) : Statement (.rdR7 data) := txnRow_fits _ data
theorem nop : Statement .nop := by simp [Statement, opcodeRow, encode, cmdRow, OpcodeRow.fits]
theorem keysched : Statement .keysched := by simp [Statement, opcodeRow, encode, cmdRow, OpcodeRow.fits]
theorem encrypt : Statement .encrypt := by simp [Statement, opcodeRow, encode, cmdRow, OpcodeRow.fits]
theorem decrypt : Statement .decrypt := by simp [Statement, opcodeRow, encode, cmdRow, OpcodeRow.fits]

end EncodingFitsTable

end Sys2Proof.Laws
end

