-- ==== Sys2Proof/Laws/Permutation.lean ====
section
/-! SUPPORT. The permutation primitive bit by bit: the lemmas that replace unfolding it. -/

namespace Sys2Proof.Machine

/-- Register bit i of a value built from its DES positions. -/
theorem getLsbD_ofPositions (m : Nat) (f : Nat → Bool) (i : Nat) :
    (ofPositions m f).getLsbD i = (decide (i < m) && f (m - i)) := by
  induction m generalizing i with
  | zero => simp [ofPositions]
  | succ m ih =>
    rw [ofPositions, BitVec.getLsbD_concat]
    cases i with
    | zero => simp
    | succ i => simp [ih]

/-- Register bit i of a permuted value. -/
theorem getLsbD_permute {n m : Nat} (v : BitVec n) (t : PermTable n m) (i : Nat) :
    (permute v t).getLsbD i = (decide (i < m) && v.getLsbD (n - t.entry (m - i))) := by
  simp [permute, getLsbD_ofPositions, desPos]

/-- Every entry of a table is a DES position of its input (R61). -/
theorem PermTable.entry_range {n m : Nat} (t : PermTable n m) {j : Nat} (h1 : 1 ≤ j) (hm : j ≤ m) :
    1 ≤ t.entry j ∧ t.entry j ≤ n := by
  have hl : j - 1 < t.entries.length := by rw [t.length_eq]; omega
  have hmem : t.entry j ∈ t.entries := by
    rw [PermTable.entry, List.getD_eq_getElem _ _ hl]
    exact List.getElem_mem hl
  exact t.inRange _ hmem

/-- A permutation is linear: it commutes with exclusive-or. -/
theorem permute_xor {n m : Nat} (a b : BitVec n) (t : PermTable n m) :
    permute (a ^^^ b) t = permute a t ^^^ permute b t := by
  apply BitVec.eq_of_getLsbD_eq
  intro i hi
  simp only [BitVec.getLsbD_xor, getLsbD_permute, hi, decide_true, Bool.true_and]

/-- A permutation of the zero value is zero. -/
@[simp] theorem permute_zero {n m : Nat} (t : PermTable n m) : permute 0#n t = 0#m := by
  apply BitVec.eq_of_getLsbD_eq
  intro i hi
  simp only [getLsbD_permute, BitVec.getLsbD_zero, Bool.and_false]

end Sys2Proof.Machine
end

