-- ==== Sys2Proof/Laws/State.lean ====
section
/-! SUPPORT. What each update of the state changes and what it leaves: one lemma per field per update. -/

namespace Sys2Proof.Machine

section Environment
variable (s : State) (e e' : Engine) (v : Word)

@[simp] theorem withEngine_engine : (s.withEngine e).engine = e := rfl
@[simp] theorem withEngine_agenda : (s.withEngine e).agenda = s.agenda := rfl
@[simp] theorem withEngine_reads : (s.withEngine e).reads = s.reads := rfl
@[simp] theorem withEngine_withEngine : (s.withEngine e).withEngine e' = s.withEngine e' := rfl
@[simp] theorem withEngine_self : s.withEngine s.engine = s := rfl
@[simp] theorem observe_engine : (s.observe v).engine = s.engine := rfl
@[simp] theorem observe_agenda : (s.observe v).agenda = s.agenda := rfl
@[simp] theorem observe_reads : (s.observe v).reads = s.reads ++ [v] := rfl
@[simp] theorem popEvent_engine : s.popEvent.engine = s.engine := rfl
@[simp] theorem popEvent_reads : s.popEvent.reads = s.reads := rfl
@[simp] theorem popEvent_agenda : s.popEvent.agenda = s.agenda.tail := rfl

end Environment

section Error
variable (e : Engine) (k : ErrorKind)

@[simp] theorem recordError_key : (e.recordError k).key = e.key := by unfold Engine.recordError; split <;> rfl
@[simp] theorem recordError_din : (e.recordError k).din = e.din := by unfold Engine.recordError; split <;> rfl
@[simp] theorem recordError_dout : (e.recordError k).dout = e.dout := by unfold Engine.recordError; split <;> rfl
@[simp] theorem recordError_done : (e.recordError k).done = e.done := by unfold Engine.recordError; split <;> rfl
@[simp] theorem recordError_kv : (e.recordError k).kv = e.kv := by unfold Engine.recordError; split <;> rfl
@[simp] theorem recordError_dir : (e.recordError k).dir = e.dir := by unfold Engine.recordError; split <;> rfl
@[simp] theorem recordError_phase : (e.recordError k).phase = e.phase := by unfold Engine.recordError; split <;> rfl
@[simp] theorem recordError_round : (e.recordError k).round = e.round := by unfold Engine.recordError; split <;> rfl
@[simp] theorem recordError_l : (e.recordError k).l = e.l := by unfold Engine.recordError; split <;> rfl
@[simp] theorem recordError_r : (e.recordError k).r = e.r := by unfold Engine.recordError; split <;> rfl
@[simp] theorem recordError_c : (e.recordError k).c = e.c := by unfold Engine.recordError; split <;> rfl
@[simp] theorem recordError_d : (e.recordError k).d = e.d := by unfold Engine.recordError; split <;> rfl
@[simp] theorem recordError_rk : (e.recordError k).rk = e.rk := by unfold Engine.recordError; split <;> rfl
@[simp] theorem recordError_busy : (e.recordError k).busy = e.busy := by simp [Engine.busy]

/-- The error flag is set, whatever it was. -/
@[simp] theorem recordError_err : (e.recordError k).err = true := by
  unfold Engine.recordError; split <;> simp_all

/-- The first error is kept. -/
theorem recordError_of_err (h : e.err = true) : e.recordError k = e := by simp [Engine.recordError, h]

/-- An error is recorded where none was. -/
theorem recordError_of_not_err (h : e.err = false) : e.recordError k = { e with err := true, errcode := k.code } := by
  simp [Engine.recordError, h]

end Error

section RoundKeyFile
variable (e : Engine) (i j : Fin 16) (v : RoundKey)

/-- A read after a write of the same entry gives the value written. -/
@[simp] theorem readRK_writeRK_same : (e.writeRK i v).readRK i = v := by simp [Engine.readRK, Engine.writeRK]

/-- A write leaves every other entry alone. -/
theorem readRK_writeRK_other (h : i ≠ j) : (e.writeRK i v).readRK j = e.readRK j := by
  have h' : i.val ≠ j.val := fun hv => h (Fin.ext hv)
  simp [Engine.readRK, Engine.writeRK, h']

@[simp] theorem writeRK_key : (e.writeRK i v).key = e.key := rfl
@[simp] theorem writeRK_din : (e.writeRK i v).din = e.din := rfl
@[simp] theorem writeRK_dout : (e.writeRK i v).dout = e.dout := rfl
@[simp] theorem writeRK_done : (e.writeRK i v).done = e.done := rfl
@[simp] theorem writeRK_kv : (e.writeRK i v).kv = e.kv := rfl
@[simp] theorem writeRK_err : (e.writeRK i v).err = e.err := rfl
@[simp] theorem writeRK_errcode : (e.writeRK i v).errcode = e.errcode := rfl
@[simp] theorem writeRK_dir : (e.writeRK i v).dir = e.dir := rfl
@[simp] theorem writeRK_phase : (e.writeRK i v).phase = e.phase := rfl
@[simp] theorem writeRK_round : (e.writeRK i v).round = e.round := rfl
@[simp] theorem writeRK_l : (e.writeRK i v).l = e.l := rfl
@[simp] theorem writeRK_r : (e.writeRK i v).r = e.r := rfl
@[simp] theorem writeRK_c : (e.writeRK i v).c = e.c := rfl
@[simp] theorem writeRK_d : (e.writeRK i v).d = e.d := rfl

end RoundKeyFile

/-- ROUND names round i exactly when its value is i, 1 to 16. -/
theorem roundIndex_eq_some {round : BitVec 5} {i : Fin 16} : roundIndex round = some i ↔ round.toNat = i.val + 1 := by
  unfold roundIndex
  split
  · rename_i h
    simp only [Option.some.injEq, Fin.ext_iff]
    omega
  · rename_i h
    have := i.isLt
    simp only [reduceCtorEq, false_iff]
    omega

theorem busy_eq_false {e : Engine} : e.busy = false ↔ e.phase = .idle := by simp [Engine.busy]

theorem busy_eq_true {e : Engine} : e.busy = true ↔ e.phase ≠ .idle := by simp [Engine.busy]

end Sys2Proof.Machine
end

