-- ==== Sys2Proof/Laws/Step.lean ====
section
/-! SUPPORT. What each shared operation, an instruction and a step can do, said once: the inversion lemmas that later
proofs cite instead of unfolding the machine. -/

namespace Sys2Proof.Machine

/-- A raised error answers a next state that differs at most in the error record. -/
@[simp] theorem raiseError_eq (k : ErrorKind) (s : State) :
    raiseError k s = .next (s.withEngine (s.engine.recordError k)) := rfl

/-- A read answers a next state in which the host has observed one more value. -/
@[simp] theorem answerRead_eq (idx : RegIndex) (s : State) :
    answerRead idx s = .next (s.observe (hostRead s.engine idx)) := rfl

/-- The RESET event answers the reset engine state. -/
@[simp] theorem resetEvent_eq (s : State) : resetEvent s = .next (s.withEngine Engine.reset) := rfl

/-- The ways one engine step changes the engine: the five steps of R77, R78, R101, R102 and R103. -/
inductive EngineStepCase (e : Engine) : Engine → Prop where
  | ksInitial (h : e.phase = .ksInitial) : EngineStepCase e (stepKsInitial e)
  | ksRound (i : Fin 16) (h : e.phase = .ksRound) (hr : e.round.toNat = i.val + 1) : EngineStepCase e (stepKsRound i e)
  | blkInitial (h : e.phase = .blkInitial) : EngineStepCase e (stepBlkInitial e)
  | blkRound (i : Fin 16) (h : e.phase = .blkRound) (hr : e.round.toNat = i.val + 1) :
      EngineStepCase e (stepBlkRound i e)
  | blkFinal (h : e.phase = .blkFinal) : EngineStepCase e (stepBlkFinal e)

/-- An engine step happens only in a state of R34, and is the step its PHASE names. -/
theorem engineStep_cases {e e' : Engine} (h : engineStep e = some e') : e.legal = true ∧ EngineStepCase e e' := by
  unfold engineStep at h
  split at h
  · rename_i hl
    refine ⟨hl, ?_⟩
    split at h <;> rename_i hp
    case h_1 | h_7 | h_8 => cases h
    case h_2 => cases h; exact .ksInitial hp
    case h_4 => cases h; exact .blkInitial hp
    case h_6 => cases h; exact .blkFinal hp
    case h_3 =>
      obtain ⟨i, hi, rfl⟩ := Option.map_eq_some_iff.mp h
      exact .ksRound i hp (roundIndex_eq_some.mp hi)
    case h_5 =>
      obtain ⟨i, hi, rfl⟩ := Option.map_eq_some_iff.mp h
      exact .blkRound i hp (roundIndex_eq_some.mp hi)
  · cases h

/-- The engine's turn is one engine step, or nothing in IDLE. -/
theorem engineTurn_cases {s t : State} (h : engineTurn s = .next t) :
    (∃ e, engineStep s.engine = some e ∧ t = s.withEngine e) ∨ (s.engine.phase = .idle ∧ t = s) := by
  unfold engineTurn at h
  split at h
  · rename_i e he
    cases h
    exact .inl ⟨e, he, rfl⟩
  · split at h
    · cases h
    · rename_i hb
      cases h
      exact .inr ⟨busy_eq_false.mp (by simpa using hb), rfl⟩

/-- The ways an instruction changes the engine. -/
inductive ExecCase (e : Engine) : Engine → Prop where
  /-- Nothing: a read, NOP, a command write that is ignored. -/
  | same : ExecCase e e
  /-- An error is raised (R124), one of the four the hardware can report (R122). -/
  | error (k : ErrorKind) (hk : k.code.toNat ≤ 4) : ExecCase e (e.recordError k)
  /-- WR KEY is accepted (R107). -/
  | loadKey (v : Word) (h : e.phase = .idle) : ExecCase e { e with key := v, kv := false }
  /-- WR DIN is accepted (R108). -/
  | loadDin (v : Word) (h : e.phase = .idle) : ExecCase e { e with din := v }
  /-- KEYSCHED is accepted (R76). -/
  | startKeysched (h : e.phase = .idle) (he : e.err = false) :
      ExecCase e { e with kv := false, phase := .ksInitial, round := 0#5 }
  /-- ENCRYPT or DECRYPT is accepted (R99, R100). -/
  | startBlock (dir : Bool) (h : e.phase = .idle) (he : e.err = false) (hk : e.kv = true) :
      ExecCase e { e with dir := dir, done := false, phase := .blkInitial, round := 0#5 }

/-- What an instruction's answer says of the next state. -/
def ExecSpec (s t : State) : Prop := ExecCase s.engine t.engine ∧ t.agenda = s.agenda

theorem acceptKeysched_spec (s : State) (he : s.engine.err = false) :
    ∃ t, acceptKeysched s = .next t ∧ ExecSpec s t := by
  unfold acceptKeysched
  split
  · exact ⟨_, rfl, .error _ (by decide), rfl⟩
  · rename_i hb
    exact ⟨_, rfl, .startKeysched (busy_eq_false.mp (by simpa using hb)) he, rfl⟩

theorem acceptBlock_spec (dir : Bool) (s : State) (he : s.engine.err = false) :
    ∃ t, acceptBlock dir s = .next t ∧ ExecSpec s t := by
  unfold acceptBlock
  split
  · exact ⟨_, rfl, .error _ (by decide), rfl⟩
  · rename_i hb
    split
    · rename_i hk
      exact ⟨_, rfl, .startBlock dir (busy_eq_false.mp (by simpa using hb)) he hk, rfl⟩
    · exact ⟨_, rfl, .error _ (by decide), rfl⟩

theorem acceptCmdWrite_spec (v : Word) (s : State) (he : s.engine.err = false) :
    ∃ t, acceptCmdWrite v s = .next t ∧ ExecSpec s t := by
  unfold acceptCmdWrite
  split
  · exact ⟨_, rfl, .error _ (by decide), rfl⟩
  · split
    · exact ⟨_, rfl, .same, rfl⟩
    · split
      · exact acceptKeysched_spec s he
      · split
        · exact acceptBlock_spec false s he
        · exact acceptBlock_spec true s he

theorem issue_spec {accept : State → Result} {s : State}
    (h : s.engine.err = false → ∃ t, accept s = .next t ∧ ExecSpec s t) :
    ∃ t, issue accept s = .next t ∧ ExecSpec s t := by
  unfold issue
  split
  · exact ⟨s, rfl, .same, rfl⟩
  · rename_i he
    exact h (by simpa using he)

theorem execWrKey_spec (v : Word) (s : State) : ∃ t, execWrKey v s = .next t ∧ ExecSpec s t := by
  unfold execWrKey
  split
  · exact ⟨_, rfl, .error _ (by decide), rfl⟩
  · rename_i hb
    exact ⟨_, rfl, .loadKey v (busy_eq_false.mp (by simpa using hb)), rfl⟩

theorem execWrDin_spec (v : Word) (s : State) : ∃ t, execWrDin v s = .next t ∧ ExecSpec s t := by
  unfold execWrDin
  split
  · exact ⟨_, rfl, .error _ (by decide), rfl⟩
  · rename_i hb
    exact ⟨_, rfl, .loadDin v (busy_eq_false.mp (by simpa using hb)), rfl⟩

theorem raiseError_spec (k : ErrorKind) (hk : k.code.toNat ≤ 4) (s : State) :
    ∃ t, raiseError k s = .next t ∧ ExecSpec s t :=
  ⟨_, rfl, .error k hk, rfl⟩

theorem answerRead_spec (idx : RegIndex) (s : State) : ∃ t, answerRead idx s = .next t ∧ ExecSpec s t :=
  ⟨_, rfl, .same, rfl⟩

/-- Every instruction answers a next state in every state, and changes the engine in one of the ways of `ExecCase`. -/
theorem exec_spec (i : Instr) (s : State) : ∃ t, exec i s = .next t ∧ ExecSpec s t := by
  cases i with
  | wrKey v => exact execWrKey_spec v s
  | wrDin v => exact execWrDin_spec v s
  | wrCmd v => exact issue_spec (acceptCmdWrite_spec v s)
  | wrDout _ | wrStatus _ | wrR5 _ | wrR6 _ | wrR7 _ => exact raiseError_spec _ (by decide) s
  | rdKey _ | rdDin _ | rdDout _ | rdCmd _ | rdStatus _ | rdR5 _ | rdR6 _ | rdR7 _ => exact answerRead_spec _ s
  | nop => exact issue_spec fun _ => ⟨s, rfl, .same, rfl⟩
  | keysched => exact issue_spec (acceptKeysched_spec s)
  | encrypt => exact issue_spec (acceptBlock_spec false s)
  | decrypt => exact issue_spec (acceptBlock_spec true s)

/-- The inversion of an instruction. -/
theorem exec_cases {i : Instr} {s t : State} (h : exec i s = .next t) : ExecSpec s t := by
  obtain ⟨t', ht, hs⟩ := exec_spec i s
  cases ht.symm.trans h
  exact hs

/-- The ways one step changes the engine's state: by an instruction, by an engine step, not at all in IDLE, or by
RESET. -/
theorem stepAt_cases {base : Nat} {s t : State} (h : stepAt base s = .next t) :
    t.agenda = s.agenda.tail ∧
    ((∃ i, s.action base = .execute i ∧ exec i s.popEvent = .next t ∧ ExecCase s.engine t.engine) ∨
      (s.action base = .engineTurn ∧ engineStep s.engine = some t.engine ∧ t.reads = s.reads) ∨
      (s.action base = .engineTurn ∧ s.engine.phase = .idle ∧ t = s.popEvent) ∨
      (s.action base = .resetEvent ∧ t = s.popEvent.withEngine Engine.reset)) := by
  unfold stepAt perform at h
  cases ha : s.action base with
  | execute i =>
    rw [ha] at h
    obtain ⟨hc, hg⟩ := exec_cases h
    exact ⟨hg, .inl ⟨i, rfl, h, hc⟩⟩
  | engineTurn =>
    rw [ha] at h
    obtain ⟨e, he, rfl⟩ | ⟨hp, rfl⟩ := engineTurn_cases h
    · exact ⟨rfl, .inr (.inl ⟨rfl, he, rfl⟩)⟩
    · exact ⟨rfl, .inr (.inr (.inl ⟨rfl, hp, rfl⟩))⟩
  | resetEvent =>
    rw [ha] at h
    cases h
    exact ⟨rfl, .inr (.inr (.inr ⟨rfl, rfl⟩))⟩
  | reject r =>
    rw [ha] at h
    cases h

end Sys2Proof.Machine
end

