-- ==== Sys2Proof/Tests/Slice0.lean ====
section
/-! SUPPORT. Tests of the model against values the spec prints (V<n>.<m> are the vectors of 95_test_vectors.md, R<n> the
examples of its rules), and for every obligation with hypotheses a witness that meets them. -/

namespace Sys2Proof.Tests

open Sys2Proof Sys2Proof.Machine

/-! ## Small states -/

/-- The source's key and block (S1 of 95_test_vectors.md). -/
def sampleKey : Word := 0x133457799BBCDFF1#64
def sampleBlock : Word := 0x0123456789ABCDEF#64

/-- The round keys of the sample key (V5.1). -/
def sampleRoundKeys : RoundKeySet :=
  #v[0x1B02EFFC7072#48, 0x79AED9DBC9E5#48, 0x55FC8A42CF99#48, 0x72ADD6DB351D#48,
     0x7CEC07EB53A8#48, 0x63A53E507B2F#48, 0xEC84B7F618BC#48, 0xF78A3AC13BFB#48,
     0xE0DBEBEDE781#48, 0xB1F347BA464F#48, 0x215FD3DED386#48, 0x7571F59467E9#48,
     0x97C5D1FABA41#48, 0x5F43B7F2E73A#48, 0xBF918D3D3F0A#48, 0xCB3D8B0E17F5#48]

/-- A state with this engine, these coming events, and nothing read yet. -/
def stateOf (e : Engine) (agenda : List Event := []) : State := { engine := e, agenda := agenda, reads := [] }

/-- "K ready" of 95_test_vectors.md L2.9: the sample key is loaded and its round keys are computed. -/
def keyReady : Engine :=
  { Engine.reset with key := sampleKey, kv := true, c := 0xF0CCAAF#28, d := 0x556678F#28, rk := sampleRoundKeys }

/-- A key schedule of the sample key has been accepted (V9.3). -/
def keyStarted : Engine := { Engine.reset with key := sampleKey, phase := .ksInitial }

/-- A key schedule before its round i, with the C and D of V5.1 where i = 1 or 16. -/
def keyRound (i : Nat) (c d : KeyHalf) : Engine :=
  { Engine.reset with key := sampleKey, phase := .ksRound, round := BitVec.ofNat 5 i, c := c, d := d }

/-- A block operation on the sample block has been accepted (V9.6). -/
def blockStarted : Engine := { keyReady with din := sampleBlock, phase := .blkInitial }

/-- A block operation before its round i. -/
def blockRound (i : Nat) (l r : Half) : Engine :=
  { keyReady with din := sampleBlock, phase := .blkRound, round := BitVec.ofNat 5 i, l := l, r := r }

/-- A block operation before its last step (V7.6, row 16). -/
def blockLast : Engine :=
  { keyReady with din := sampleBlock, phase := .blkFinal, round := 16#5, l := 0x43423234#32, r := 0x0A4CD995#32 }

/-- An engine with the error a `WR CMD, 0x4` records (V9.13). -/
def failed (e : Engine) : Engine := { e with err := true, errcode := 1#4 }

/-- The next state of an answer. -/
def nextOf {σ φ ρ : Type} : Host.Outcome σ φ ρ → Option σ
  | .next s => some s
  | .fault _ => none
  | .refused _ => none

/-- The STATUS value after an instruction. -/
def statusAfter (i : Instr) (e : Engine) : Option Word := (nextOf (exec i (stateOf e))).map fun t => t.engine.status

/-- What the host has read after an instruction. -/
def readsAfter (i : Instr) (e : Engine) : Option (List Word) := (nextOf (exec i (stateOf e))).map fun t => t.reads

/-! ## WellFormed -/

/-- R53, R59: a read carries DATA = 0; each read with another DATA is refused. -/
theorem test_wf_refuses_read_data :
    [Instr.rdKey 1#64, .rdDin 1#64, .rdDout 1#64, .rdCmd 1#64, .rdStatus 1#64, .rdR5 1#64, .rdR6 1#64,
      .rdR7 0x8000000000000000#64].all (fun i => !i.wf) = true := by decide +kernel

/-- A write has any DATA, a read DATA 0. -/
theorem test_wf_accepts :
    [Instr.wrKey 0xFFFFFFFFFFFFFFFF#64, .wrCmd 4#64, .rdKey 0#64, .rdR7 0#64, .nop, .decrypt].all (fun i => i.wf) = true := by
  decide +kernel

/-! ## Decoding: words as R107 to R118 and L2.9 print them -/

theorem test_decode_writes :
    decode (.txn 0x8133457799BBCDFF1#68) = .ok (.wrKey 0x133457799BBCDFF1#64) ∧
    decode (.txn 0x90123456789ABCDEF#68) = .ok (.wrDin 0x0123456789ABCDEF#64) ∧
    decode (.txn 0xA0000000000000005#68) = .ok (.wrDout 5#64) ∧
    decode (.txn 0xB0000000000000101#68) = .ok (.wrCmd 0x101#64) ∧
    decode (.txn 0xC0000000000000000#68) = .ok (.wrStatus 0#64) ∧
    decode (.txn 0xD8000000000000000#68) = .ok (.wrR5 0x8000000000000000#64) ∧
    decode (.txn 0xE0000000000000001#68) = .ok (.wrR6 1#64) ∧
    decode (.txn 0xFFFFFFFFFFFFFFFFF#68) = .ok (.wrR7 0xFFFFFFFFFFFFFFFF#64) :=
  ⟨rfl, rfl, rfl, rfl, rfl, rfl, rfl, rfl⟩

theorem test_decode_reads :
    decode (.txn 0x00000000000000000#68) = .ok (.rdKey 0#64) ∧ decode (.txn 0x10000000000000000#68) = .ok (.rdDin 0#64) ∧
    decode (.txn 0x20000000000000000#68) = .ok (.rdDout 0#64) ∧ decode (.txn 0x30000000000000000#68) = .ok (.rdCmd 0#64) ∧
    decode (.txn 0x40000000000000000#68) = .ok (.rdStatus 0#64) ∧ decode (.txn 0x50000000000000000#68) = .ok (.rdR5 0#64) ∧
    decode (.txn 0x60000000000000000#68) = .ok (.rdR6 0#64) ∧ decode (.txn 0x70000000000000000#68) = .ok (.rdR7 0#64) :=
  ⟨rfl, rfl, rfl, rfl, rfl, rfl, rfl, rfl⟩

theorem test_decode_commands :
    decode (.cmd 0x0000000000000000#64) = .ok .nop ∧ decode (.cmd 0x0000000000000001#64) = .ok .keysched ∧
    decode (.cmd 0x0000000000000002#64) = .ok .encrypt ∧ decode (.cmd 0x0000000000000003#64) = .ok .decrypt :=
  ⟨rfl, rfl, rfl, rfl⟩

/-- R57: OP above 0x03, and RSV not 0 with OP of a command. -/
theorem test_decode_reserved :
    decode (.cmd 0x4#64) = .error (.reservedCommand 0x4#64) ∧ decode (.cmd 0x101#64) = .error (.reservedCommand 0x101#64) ∧
    decode (.cmd 0x8000000000000000#64) = .error (.reservedCommand 0x8000000000000000#64) :=
  ⟨rfl, rfl, rfl⟩

/-- The fields of R53 one by one: W = 1, REG = 4, DATA. -/
theorem test_decode_fields :
    decode (.txn (0b1#1 ++ 0b100#3 ++ 0xFEDCBA9876543210#64)) = .ok (.wrStatus 0xFEDCBA9876543210#64) := rfl

/-- The opcode table's numbering, and the first step after reset. -/
theorem test_table_words :
    decodeTableWord 72 0x90123456789ABCDEF = some (.wrDin sampleBlock) ∧ decodeTableWord 64 2 = some .encrypt ∧
    decodeTableWord 64 5 = none ∧
    (nextOf (step (State.reset.withFetchWord 72 0x90123456789ABCDEF))).map (fun t => t.engine.din) = some sampleBlock := by
  decide +kernel

/-! ## The cipher's parts -/

/-- V1.1, V1.3, V1.4, V1.5. -/
theorem test_ip_fp :
    permute sampleBlock tableIP = 0xCC00CCFFF0AAF0AA#64 ∧ permute 0x8000000000000000#64 tableIP = 0x0000000001000000#64 ∧
    permute 0x8000000000000000#64 tableFP = 0x0000000000000040#64 ∧
    permute 0xCC00CCFFF0AAF0AA#64 tableFP = sampleBlock := by decide +kernel

/-- V1.7, V1.9, V1.10, V1.11, V1.12, V1.13. -/
theorem test_e_p :
    permute 0xF0AAF0AA#32 tableE = 0x7A15557A1555#48 ∧ permute 0x80000000#32 tableE = 0x400000000001#48 ∧
    permute 0x00000001#32 tableE = 0x800000000002#48 ∧ permute 0x80000000#32 tableP = 0x00800000#32 ∧
    permute 0x00000001#32 tableP = 0x00000800#32 ∧ permute 0x5C82B597#32 tableP = 0x234AA9BB#32 := by decide +kernel

/-- V4.1, V4.2, V4.4, V4.6, V4.7. -/
theorem test_pc1_pc2 :
    permute sampleKey tablePC1 = 0xF0CCAAF556678F#56 ∧ permute 0x0101010101010101#64 tablePC1 = 0x00000000000000#56 ∧
    permute 0x8000000000000000#64 tablePC1 = 0x01000000000000#56 ∧
    permute 0x80000000000000#56 tablePC2 = 0x080000000000#48 ∧
    permute 0xE19955FAACCF1E#56 tablePC2 = 0x1B02EFFC7072#48 := by decide +kernel

/-- V3.1 to V3.4. -/
theorem test_rotl28 :
    rotl28 0x8000000#28 1 = 0x0000001#28 ∧ rotl28 0xC000000#28 2 = 0x0000003#28 ∧ rotl28 0x0000001#28 2 = 0x0000004#28 ∧
    rotl28 0xF0CCAAF#28 1 = 0xE19955F#28 := by decide +kernel

/-- V6.1, the rows 0x1B, 0x20 and 0x1E: all eight boxes. -/
theorem test_sbox_lookups :
    (List.finRange 8).map (fun j => sboxLookup j 0x1B#6) = [5#4, 9#4, 0xB#4, 0xA#4, 9#4, 0xB#4, 0xF#4, 0xE#4] ∧
    (List.finRange 8).map (fun j => sboxLookup j 0x20#6) = [4#4, 0#4, 0xD#4, 0xA#4, 4#4, 9#4, 1#4, 7#4] ∧
    (List.finRange 8).map (fun j => sboxLookup j 0x1E#6) = [7#4, 0xA#4, 8#4, 0xF#4, 9#4, 0xB#4, 1#4, 7#4] := by
  decide +kernel

/-- V7.1, V7.2, V7.3. -/
theorem test_feistel :
    feistel 0xF0AAF0AA#32 0x1B02EFFC7072#48 = 0x234AA9BB#32 ∧ feistel 0xEF4A6544#32 0x79AED9DBC9E5#48 = 0x3CAB87A3#32 ∧
    feistel 0x43423234#32 0xCB3D8B0E17F5#48 = 0xC8C04F98#32 := by decide +kernel

/-- V5.1: all sixteen round keys. -/
theorem test_round_keys : generateRoundKeys sampleKey = sampleRoundKeys := by decide +kernel

/-- S1 and V8.2, the source's known-answer vector. -/
theorem test_known_answer_encrypt : encryptBlock sampleBlock sampleRoundKeys = 0x85E813540F0AB405#64 := by decide +kernel
theorem test_known_answer_decrypt : decryptBlock 0x85E813540F0AB405#64 sampleRoundKeys = sampleBlock := by decide +kernel

/-- V8.5: all-ones block under the all-ones round keys of V5.3. -/
theorem test_all_ones_encrypt :
    encryptBlock 0xFFFFFFFFFFFFFFFF#64 (Vector.replicate 16 0xFFFFFFFFFFFF#48) = 0x7359B2163E4EDC58#64 := by decide +kernel

/-! ## One instruction, one step -/

/-- V9.2, V9.3, V9.6, V9.10: STATUS after an accepted transaction. -/
theorem test_status_accepted :
    statusAfter (.wrKey sampleKey) Engine.reset = some 0#64 ∧
    statusAfter .keysched { Engine.reset with key := sampleKey } = some 0x201#64 ∧
    statusAfter .encrypt keyReady = some 0x605#64 ∧
    statusAfter .decrypt { keyReady with done := true } = some 0x705#64 := by decide +kernel

/-- V9.12, V9.13, V9.14, V9.18, V9.19, V9.20: the error a transaction records after reset. -/
theorem test_status_errors :
    statusAfter .encrypt Engine.reset = some 0x28#64 ∧ statusAfter (.wrCmd 0x4#64) Engine.reset = some 0x18#64 ∧
    statusAfter (.wrCmd 0x101#64) Engine.reset = some 0x18#64 ∧ statusAfter (.wrStatus 0#64) Engine.reset = some 0x48#64 ∧
    statusAfter (.wrDout 5#64) Engine.reset = some 0x48#64 ∧
    statusAfter (.wrR7 0xFFFFFFFFFFFFFFFF#64) Engine.reset = some 0x48#64 := by decide +kernel

/-- V9.11, V9.15, V9.16, V9.17: transactions while BUSY. -/
theorem test_status_busy :
    statusAfter .keysched { blockStarted with dir := true } = some 0x73D#64 ∧
    statusAfter (.wrCmd 0x4#64) keyStarted = some 0x219#64 ∧ statusAfter (.wrDin 1#64) keyStarted = some 0x239#64 ∧
    statusAfter .nop keyStarted = some 0x201#64 := by decide +kernel

/-- V9.22, V9.23: after an error, commands are ignored and KEY is still written. -/
theorem test_status_after_error :
    statusAfter .encrypt (failed Engine.reset) = some 0x18#64 ∧ statusAfter .keysched (failed Engine.reset) = some 0x18#64 ∧
    statusAfter (.wrCmd 0x4#64) (failed Engine.reset) = some 0x18#64 ∧
    (nextOf (exec (.wrKey 1#64) (stateOf (failed Engine.reset)))).map (fun t => t.engine.key) = some 1#64 := by
  decide +kernel

/-- V9.1, V9.21, R113, R114, R117: what reads return; the STATUS of R117's example. -/
theorem test_reads :
    readsAfter (.rdStatus 0#64) Engine.reset = some [0#64] ∧ readsAfter (.rdKey 0#64) keyReady = some [0#64] ∧
    readsAfter (.rdDin 0#64) blockStarted = some [sampleBlock] ∧ readsAfter (.rdCmd 0#64) keyStarted = some [0#64] ∧
    readsAfter (.rdDout 0#64) { keyReady with dout := 0x85E813540F0AB405#64 } = some [0x85E813540F0AB405#64] ∧
    readsAfter (.rdR5 0#64) keyReady = some [0#64] ∧
    readsAfter (.rdStatus 0#64) (blockRound 6 0#32 0#32) = some [0x6805#64] := by decide +kernel

/-- R77, V9.4; V5.1 row 1; R101; V7.6 row 1; R103: one engine step of each phase. -/
theorem test_engine_steps :
    (engineStep keyStarted).map (fun e => (e.c, e.d, e.status)) = some (0xF0CCAAF#28, 0x556678F#28, 0x1401#64) ∧
    (engineStep (keyRound 1 0xF0CCAAF#28 0x556678F#28)).map (fun e => (e.c, e.d, e.rk[0], e.round)) =
      some (0xE19955F#28, 0xAACCF1E#28, 0x1B02EFFC7072#48, 2#5) ∧
    (engineStep blockStarted).map (fun e => (e.l, e.r)) = some (0xCC00CCFF#32, 0xF0AAF0AA#32) ∧
    (engineStep (blockRound 1 0xCC00CCFF#32 0xF0AAF0AA#32)).map (fun e => (e.l, e.r)) =
      some (0xF0AAF0AA#32, 0xEF4A6544#32) ∧
    (engineStep blockLast).map (fun e => (e.dout, e.status)) = some (0x85E813540F0AB405#64, 0x6#64) := by decide +kernel

/-- V5.1 row 16 and V9.5: the last key-schedule step. V7.7 row 1: a decryption round uses RK[16] first. -/
theorem test_last_rounds :
    (engineStep (keyRound 16 0xF866557#28 0xAAB33C7#28)).map (fun e => (e.c, e.rk[15], e.status)) =
      some (0xF0CCAAF#28, 0xCB3D8B0E17F5#48, 0x4#64) ∧
    (engineStep { blockRound 1 0x0A4CD995#32 0x43423234#32 with dir := true }).map (fun e => (e.l, e.r)) =
      some (0x43423234#32, 0xC28C960D#32) ∧
    (engineStep (blockRound 16 0xC28C960D#32 0x43423234#32)).map (fun e => (e.r, e.status)) =
      some (0x0A4CD995#32, 0x10A05#64) := by decide +kernel

/-- R34: PHASE = KS_ROUND with ROUND = 0 has no engine step. V9.24: RESET. -/
theorem test_stuck_and_reset :
    stepAt 0 (stateOf (keyRound 0 0#28 0#28)) = .fault .noEngineStep ∧
    (nextOf (stepAt 0 (stateOf (failed blockLast) [.reset]))).map (fun t => t.engine) = some Engine.reset :=
  ⟨rfl, by decide +kernel⟩

/-- R60, P1: a line with a label and a comment, and R59's refusal of a literal of 17 digits. -/
theorem test_assembler :
    Asm.assembleLine "w1:     RD STATUS                    ; poll".toList = some [.transact 0x40000000000000000#68] ∧
    Asm.assembleLine "WR Key, 0x133457799BBCDFF1".toList = some [.transact 0x8133457799BBCDFF1#68] ∧
    Asm.assembleLine "WR CMD, ENCRYPT".toList = some [.transact 0xB0000000000000002#68] ∧
    Asm.assembleLine "WR DIN, 0x10000000000000000".toList = none ∧ Asm.assembleLine "WR R8, 0x0".toList = none := by
  decide +kernel

/-! ## Witnesses: for each obligation with hypotheses, states and operands that meet them, clause by clause -/

/-- Two different engines before RESET, and two RESETs in a row. -/
theorem test_witness_reset :
    (stateOf blockLast [.reset]).action 0 = .resetEvent ∧ (stateOf (failed keyReady) [.reset]).action 0 = .resetEvent ∧
    (∃ t, stepAt 0 (stateOf blockLast [.reset]) = .next t) ∧
    (∃ t', stepAt 0 (stateOf (failed keyReady) [.reset]) = .next t') ∧
    (∃ t t', stepAt 0 (stateOf blockLast [.reset, .reset]) = .next t ∧ stepAt 0 t = .next t') :=
  ⟨rfl, rfl, ⟨_, rfl⟩, ⟨_, rfl⟩, _, _, rfl, rfl⟩

/-- Idle, busy, and busy with an error: WrKeyLoadsKeyAndClearsKeyValid, WrDinLoadsInputBlock. -/
theorem test_witness_wr_key_din :
    keyReady.busy = false ∧ keyStarted.busy = true ∧ (failed blockLast).busy = true ∧ (failed blockLast).err = true := by
  decide +kernel

/-- WritesToReadOnlyAndUnmappedAreErrors: the first row, and both values of ERR. -/
theorem test_witness_wr_read_only (v : Word) :
    ((0xA#4, Instr.wrDout v) ∈
      [(0xA#4, Instr.wrDout v), (0xC#4, .wrStatus v), (0xD#4, .wrR5 v), (0xE#4, .wrR6 v), (0xF#4, .wrR7 v)]) ∧
    keyStarted.err = false ∧ (failed keyStarted).err = true := by
  simp [keyStarted, failed, Engine.reset]

/-- WrCmdIssuesItsCommand: ERR = 1; the two reserved conditions at their first values; a command; idle with KV = 1. -/
theorem test_witness_wr_cmd :
    (failed keyReady).err = true ∧ keyReady.err = false ∧ (0x100#64).extractLsb' 8 56 ≠ 0#56 ∧
    ((0x4#64).extractLsb' 0 8).toNat > 0x03 ∧ keyReady.busy = false ∧ keyReady.kv = true := by decide +kernel

theorem test_witness_wr_cmd_command : decode (.cmd 3#64) = .ok .decrypt := rfl

/-- ReservedCommandsRaiseIllegalCommand: the first value above the four, the first with RSV not 0, the last. -/
theorem test_witness_reserved :
    (∀ v ∈ [0x4#64, 0x100#64, 0xFFFFFFFFFFFFFFFF#64], v ≠ 0#64 ∧ v ≠ 1#64 ∧ v ≠ 2#64 ∧ v ≠ 3#64) ∧
    (∀ v : Word, (stateOf keyStarted [.word (.cmd v)]).nextEvent = .word (.cmd v) ∧
      (stateOf keyStarted [.word (.txn (0xB#4 ++ v))]).nextEvent = .word (.txn (0xB#4 ++ v))) ∧
    keyStarted.err = false ∧ (failed keyStarted).err = true :=
  ⟨by simp, fun _ => ⟨rfl, rfl⟩, rfl, rfl⟩

/-- KeyschedStartsKeySchedule, BlockCommandsStartBlockOperation: accepted, busy, without key, ignored. -/
theorem test_witness_commands :
    (keyReady.err = false ∧ keyReady.busy = false ∧ keyReady.kv = true) ∧
    (blockLast.err = false ∧ blockLast.busy = true) ∧
    (Engine.reset.err = false ∧ Engine.reset.busy = false ∧ Engine.reset.kv = false) ∧
    (failed keyReady).err = true := by decide +kernel

/-- RecordErrorKeepsFirstError, CommandsAreIgnoredAfterError: ERR 0 and 1; a failed idle engine that takes a command, and
a failed engine that is running. -/
theorem test_witness_error_record :
    keyReady.err = false ∧ (failed keyReady).err = true ∧ (failed keyReady).busy = false ∧ (failed keyReady).phase = .idle ∧
    (∃ t, stepAt 0 (stateOf (failed keyReady) [.word (.cmd 2#64)]) = .next t) ∧
    (failed blockStarted).err = true ∧ (failed blockStarted).legal = true ∧ (failed blockStarted).busy = true :=
  ⟨rfl, rfl, rfl, rfl, ⟨_, rfl⟩, rfl, by decide +kernel, rfl⟩

/-- ErrorsAreStickyUntilReset: a transaction, an engine step and a RESET after an error. -/
theorem test_witness_sticky :
    (failed blockLast).err = true ∧
    (∃ t, stepAt 0 (stateOf (failed blockLast) [.word (.cmd 3#64)]) = .next t) ∧
    (∃ t, stepAt 0 (stateOf (failed blockLast)) = .next t) ∧
    (∃ t, stepAt 0 (stateOf (failed blockLast) [.reset]) = .next t) ∧
    (stateOf (failed blockLast) [.word (.cmd 3#64)]).action 0 ≠ .resetEvent ∧
    (stateOf (failed blockLast)).action 0 ≠ .resetEvent ∧
    (stateOf (failed blockLast) [.reset]).action 0 = .resetEvent :=
  ⟨rfl, ⟨_, rfl⟩, ⟨_, rfl⟩, ⟨_, rfl⟩, by decide +kernel, by decide +kernel, rfl⟩

/-- ChecksFollowTheirOrder: each of the four errors at the place of its check, and none. -/
theorem test_witness_checks :
    errorOf blockLast (.wrCmd 0x4#64) = some .illegalCommand ∧ errorOf keyStarted .encrypt = some .busyViolation ∧
    errorOf Engine.reset .decrypt = some .noKey ∧ errorOf blockLast (.wrR5 0#64) = some .illegalAccess ∧
    errorOf (failed blockLast) (.wrCmd 0x4#64) = none ∧ errorOf keyReady .encrypt = none := by decide +kernel

/-- DisciplinedHostMakesNoError: a disciplined command and an undisciplined write. -/
theorem test_witness_discipline :
    keyReady.err = false ∧
    disciplinedAction keyReady ((stateOf keyReady [.word (.cmd 2#64)]).action 0) = true ∧
    (∃ t, stepAt 0 (stateOf keyReady [.word (.cmd 2#64)]) = .next t) ∧
    keyStarted.err = false ∧ disciplined keyStarted (.wrDin 1#64) = false ∧
    (∃ t, exec (.wrDin 1#64) (stateOf keyStarted) = .next t) :=
  ⟨rfl, by decide +kernel, ⟨_, rfl⟩, rfl, by decide +kernel, _, rfl⟩

/-- ErrorsDoNotDisturbEngineSteps, HostCannotDisturbRunningOperation. -/
theorem test_witness_undisturbed :
    keyStarted.legal = true ∧ (blockRound 16 1#32 2#32).legal = true ∧ blockLast.busy = true ∧
    (∃ t, exec (.wrKey 1#64) (stateOf blockLast) = .next t) :=
  ⟨by decide +kernel, by decide +kernel, rfl, _, rfl⟩

/-- The five engine-step obligations, at the first and the last round and at the values of their examples. -/
theorem test_witness_engine_steps :
    (keyStarted.legal = true ∧ keyStarted.phase = .ksInitial ∧ keyStarted.key = 0x133457799BBCDFF1#64) ∧
    ((keyRound 1 0xF0CCAAF#28 0x556678F#28).legal = true ∧ (keyRound 1 0xF0CCAAF#28 0x556678F#28).round = 1#5 ∧
      (keyRound 1 0xF0CCAAF#28 0x556678F#28).phase = .ksRound) ∧
    ((keyRound 16 0#28 1#28).legal = true ∧ (keyRound 16 0#28 1#28).round.toNat = (15 : Fin 16).val + 1) ∧
    (blockStarted.legal = true ∧ blockStarted.phase = .blkInitial ∧ blockStarted.din = 0x0123456789ABCDEF#64) ∧
    ((blockRound 1 0xCC00CCFF#32 0xF0AAF0AA#32).legal = true ∧
      (blockRound 1 0xCC00CCFF#32 0xF0AAF0AA#32).round = 1#5 ∧
      (blockRound 1 0xCC00CCFF#32 0xF0AAF0AA#32).dir = false ∧
      (blockRound 1 0xCC00CCFF#32 0xF0AAF0AA#32).readRK 0 = 0x1B02EFFC7072#48) ∧
    ((blockRound 16 0#32 1#32).legal = true ∧ (blockRound 16 0#32 1#32).round.toNat = (15 : Fin 16).val + 1) ∧
    (blockLast.legal = true ∧ blockLast.phase = .blkFinal) := by decide +kernel

/-- SubkeyOrderFollowsDirection: both directions, at the first and the last round. -/
theorem test_witness_subkey :
    blockStarted.dir = false ∧ ({ blockStarted with dir := true } : Engine).dir = true ∧
    (15 : Fin 16).val + 1 = 17 - ((0 : Fin 16).val + 1) ∧ (0 : Fin 16).val + 1 = 17 - ((15 : Fin 16).val + 1) := by
  decide +kernel

/-- OnlyStatesOutsideLegalityAreStuck: a reserved phase, a round too small, an error code without ERR; a legal state. -/
theorem test_witness_stuck :
    ({ keyReady with phase := .reserved6 } : Engine).legal = false ∧
    ({ keyReady with phase := .reserved6 } : Engine).busy = true ∧ (keyRound 0 0#28 0#28).legal = false ∧
    (keyRound 17 0#28 0#28).legal = false ∧ ({ blockStarted with errcode := 1#4 } : Engine).legal = false ∧
    blockStarted.legal = true ∧ blockStarted.busy = true := by decide +kernel

/-- OperationsTakeTheirStepCounts, KeyScheduleComputesRoundKeys, BlockOperationComputesCipher. -/
theorem test_witness_operations :
    (keyStarted.legal = true ∧ keyStarted.phase = .ksInitial) ∧
    ((failed blockStarted).legal = true ∧ (failed blockStarted).phase = .blkInitial) := by decide +kernel

/-- EveryStepKeepsLegality, from a legal state with a step. -/
theorem test_witness_legality :
    blockLast.legal = true ∧ (∃ t, stepAt 0 (stateOf blockLast [.engineStep]) = .next t) ∧
    (∃ t, stepAt 0 (stateOf blockLast [.word (.txn 0xA0000000000000005#68)]) = .next t) :=
  ⟨by decide +kernel, ⟨_, rfl⟩, ⟨_, rfl⟩⟩

/-- A key schedule after its first round (V5.1 row 1), and what its invariant asks. -/
def keySecond : Engine :=
  { keyRound 2 0xE19955F#28 0xAACCF1E#28 with rk := (Vector.replicate 16 0#48).set 0 0x1B02EFFC7072#48 }

/-- EveryStepKeepsRoundKeysOfKey: in the middle of a key schedule, and with KV = 1. -/
theorem test_witness_key_invariant :
    keySecond.legal = true ∧ keySecond.KeyScheduleInv ∧ (∃ t, stepAt 0 (stateOf keySecond) = .next t) ∧
    keyReady.legal = true ∧ keyReady.KeyScheduleInv ∧
    (∃ t, stepAt 0 (stateOf keyReady [.word (.cmd 1#64)]) = .next t) := by
  refine ⟨by decide +kernel, ⟨fun h => absurd h (by decide), fun _ n hn => ?_⟩, ⟨_, rfl⟩, by decide +kernel,
    ⟨fun _ => by decide +kernel, fun h => absurd h (by decide)⟩, ⟨_, rfl⟩⟩
  obtain rfl : n = 1 := by simpa [keySecond, keyRound] using hn.symm
  exact ⟨by decide +kernel, by decide +kernel⟩

/-- EveryStepKeepsBlockProgress: after the first round (V7.6 row 1), and before the last step. -/
theorem test_witness_block_invariant :
    (blockRound 2 0xF0AAF0AA#32 0xEF4A6544#32).legal = true ∧ (blockRound 2 0xF0AAF0AA#32 0xEF4A6544#32).BlockInv ∧
    (∃ t, stepAt 0 (stateOf (blockRound 2 0xF0AAF0AA#32 0xEF4A6544#32)) = .next t) ∧
    blockLast.legal = true ∧ blockLast.BlockInv ∧ (∃ t, stepAt 0 (stateOf blockLast) = .next t) := by
  refine ⟨by decide +kernel, ⟨fun _ n hn => ?_, fun h => absurd h (by decide)⟩, ⟨_, rfl⟩, by decide +kernel,
    ⟨fun h => absurd h (by decide), fun _ => by decide +kernel⟩, ⟨_, rfl⟩⟩
  obtain rfl : n = 1 := by simpa [blockRound] using hn.symm
  decide +kernel

/-- HostSequenceGivesCipherResult: an idle engine that has other round keys, with the sequence to come. -/
theorem test_witness_host_sequence (k p : Word) (dir : Bool) :
    let s := stateOf { keyReady with done := true }
      ([.word (.txn (0x8#4 ++ k)), .word (.cmd 1#64)] ++ List.replicate 17 Event.engineStep ++
      [.word (.txn (0x9#4 ++ p)), .word (.cmd (if dir then 3#64 else 2#64))] ++ List.replicate 18 Event.engineStep ++
      [.word (.txn 0x20000000000000000#68)])
    s.engine.legal = true ∧ s.engine.busy = false ∧ s.engine.err = false :=
  have h : ({ keyReady with done := true } : Engine).legal = true := by decide +kernel
  ⟨h, rfl, rfl⟩

/-- HardwareRoundTrip: DIN is the sample block, and the value written back is its cipher text. -/
theorem test_witness_round_trip :
    let s := stateOf { keyReady with din := sampleBlock }
      ([.word (.cmd 2#64)] ++ List.replicate 18 Event.engineStep ++
      [.word (.txn 0x20000000000000000#68), .word (.txn (0x9#4 ++ 0x85E813540F0AB405#64)), .word (.cmd 3#64)] ++
      List.replicate 18 Event.engineStep)
    s.engine.legal = true ∧ s.engine.busy = false ∧ s.engine.err = false ∧ s.engine.kv = true ∧
      0x85E813540F0AB405#64 = encryptBlock s.engine.din s.engine.rk := by decide +kernel

/-- PollingDoesNotChangeTheOutcome: polls and NOPs among eighteen engine steps. -/
theorem test_witness_polling :
    let s := stateOf blockStarted ([.word (.txn 0x40000000000000000#68), .word (.cmd 0#64)] ++
      List.replicate 9 Event.engineStep ++ [.word (.txn 0x20000000000000000#68)] ++ List.replicate 9 Event.engineStep)
    s.engine.legal = true ∧ (∀ ev ∈ s.agenda, waits (Config.desBase 0) ev = true) ∧ 18 ≤ s.agenda.count .engineStep := by decide +kernel

/-- SameBlockGivesSameOutput: two engines that differ in what a block operation does not read, and their ends. -/
theorem test_witness_same_block :
    let e' : Engine := { blockStarted with key := 5#64, dout := 7#64, l := 1#32, c := 2#28 }
    blockStarted.legal = true ∧ e'.legal = true ∧ blockStarted.phase = .blkInitial ∧ e'.phase = .blkInitial ∧
    blockStarted.din = e'.din ∧ blockStarted.rk = e'.rk ∧ blockStarted.dir = e'.dir ∧
    (engineSteps 18 blockStarted).isSome = true ∧ (engineSteps 18 e').isSome = true := by decide +kernel

/-- The operations end after 18 steps, and a second one started from that end ends too. -/
theorem test_witness_second_operation :
    ((engineSteps 18 blockStarted).bind fun t =>
      engineSteps 18 { t with done := false, phase := .blkInitial, round := 0#5 }).isSome = true := by decide +kernel

/-- The bounds of FinalPermutationInvertsInitial, PermuteTakesTablePositions, RotationIsCircular, SubstitutionIsChunkwise
and BlocksAreBigEndian: each range at both ends. -/
theorem test_witness_positions :
    (1 ≤ 1 ∧ 1 ≤ 64) ∧ (1 ≤ 64 ∧ 64 ≤ 64) ∧ (1 ≤ 48 ∧ 48 ≤ 48) ∧ (1 ≤ 28 ∧ 28 ≤ 28) ∧ (1 ≤ 6 ∧ 6 ≤ 6) ∧
    (1 ≤ 4 ∧ 4 ≤ 4) ∧ (1 ≤ 8 ∧ 8 ≤ 8) ∧ (2 = 1 ∨ 2 = 2) := by decide

/-- ParityBitsReachNoRoundKey: the keys of V5.8, which differ in all eight parity bits. -/
theorem test_witness_parity :
    sampleKey ≠ 0x123556789ABDDEF0#64 ∧
    ∀ p : Nat, 1 ≤ p → p ≤ 64 → p % 8 ≠ 0 → desPos sampleKey p = desPos 0x123556789ABDDEF0#64 p := by
  have h : ∀ p ∈ List.range 65, p % 8 ≠ 0 → desPos sampleKey p = desPos 0x123556789ABDDEF0#64 p := by decide +kernel
  exact ⟨by decide, fun p _ hp => h p (List.mem_range.mpr (by omega))⟩

/-- FeistelComposesItsFourSteps: R92's two pairs with the same exclusive-or. -/
theorem test_witness_feistel :
    permute 0xFFFFFFFF#32 tableE ^^^ 0x000000000000#48 = permute 0x00000000#32 tableE ^^^ 0xFFFFFFFFFFFF#48 := by
  decide +kernel

/-- EqualSubkeysMakeBlockSelfInverse: the round keys of V5.6, and the list's last key. -/
theorem test_witness_equal_subkeys :
    (∀ i j : Fin 16, (Vector.replicate 16 0xFFFFFF000000#48)[i] = (Vector.replicate 16 0xFFFFFF000000#48)[j]) ∧
    0x1F1F1F1F0E0E0E0E#64 ∈
      [0x0101010101010101#64, 0xFEFEFEFEFEFEFEFE#64, 0xE0E0E0E0F1F1F1F1#64, 0x1F1F1F1F0E0E0E0E#64] := by decide +kernel

/-- DecodeAndEncodeAgree, EveryWordFitsOneRow: a word of each format that decodes, and one that does not. -/
theorem test_witness_words :
    decode (.txn 0x40000000000000001#68) = .ok (.rdStatus 1#64) ∧ decode (.cmd 3#64) = .ok .decrypt ∧
    decode (.cmd 0xFFFFFFFFFFFFFF00#64) = .error (.reservedCommand 0xFFFFFFFFFFFFFF00#64) :=
  ⟨rfl, rfl, rfl⟩

/-- StepRunsTheDecodedInstruction: every kind of next event, and a word of the table. -/
theorem test_witness_step (rest : List Event) :
    (stateOf keyReady (.word (.cmd 2#64) :: rest)).agenda = .word (.cmd 2#64) :: rest ∧
    decode (.cmd 2#64) = .ok .encrypt ∧ (stateOf blockLast (.engineStep :: rest)).agenda = .engineStep :: rest ∧
    (stateOf keyReady (.reset :: rest)).agenda = .reset :: rest ∧ (stateOf keyReady).agenda = [] ∧
    (engineStep blockLast).isSome = true ∧ keyReady.phase = .idle ∧ decodeTableWord 64 2 = some .encrypt :=
  ⟨rfl, rfl, rfl, rfl, rfl, by decide +kernel, rfl, by decide +kernel⟩

/-- PlatformAccessesReachTheirRegister: the first and the last register; a size, a misaligned and a far address refused. -/
theorem test_witness_access :
    let first : Access := { write := true, addr := 128 + 8 * (0#3).toNat, size := 8, data := 5#64 }
    let last : Access := { write := false, addr := 128 + 8 * (7#3).toNat, size := 8, data := 0#64 }
    (stateOf keyReady [.access first]).nextEvent = .access first ∧ accessTxn 128 first = some 0x80000000000000005#68 ∧
    (stateOf keyReady [.access last]).nextEvent = .access last ∧ accessTxn 128 last = some 0x70000000000000000#68 ∧
    (4 ≠ 8 ∨ (∀ idx : BitVec 3, 128 ≠ 128 + 8 * idx.toNat)) ∧ (∀ idx : BitVec 3, 132 ≠ 128 + 8 * idx.toNat) ∧
    (∀ idx : BitVec 3, 192 ≠ 128 + 8 * idx.toNat) := by
  refine ⟨rfl, by decide +kernel, rfl, by decide +kernel, .inl (by decide), fun idx => by omega, fun idx => ?_⟩
  have := idx.isLt
  omega

/-- PseudoInstructionsExpand: seventeen digits, and two spellings of a register name. -/
theorem test_witness_assembler :
    16 < "10000000000000000".toList.length ∧
    "Status".toList.map Char.toUpper = "sTATUS".toList.map Char.toUpper := by decide +kernel

/-- OnlyAcceptedWritesChangeOperands: a step that changes KEY and clears KV, one that changes DIN, KEYSCHED, and the last
KS_ROUND step. -/
theorem test_witness_operand_writers :
    (nextOf (stepAt 0 (stateOf keyReady [.word (.txn 0x80000000000000001#68)]))).map
      (fun t => (t.engine.key, t.engine.kv)) = some (1#64, false) ∧
    (nextOf (stepAt 0 (stateOf keyReady [.word (.txn 0x90000000000000001#68)]))).map (fun t => t.engine.din) = some 1#64 ∧
    (nextOf (stepAt 0 (stateOf keyReady [.word (.cmd 1#64)]))).map (fun t => t.engine.kv) = some false ∧
    (nextOf (stepAt 0 (stateOf (keyRound 16 0#28 0#28)))).map (fun t => t.engine.kv) = some true ∧
    keyReady.key ≠ 1#64 ∧ keyReady.din ≠ 1#64 ∧ keyReady.kv = true ∧ (keyRound 16 0#28 0#28).kv = false := by decide +kernel

/-- OnlyEngineStepsChangeResults: a step that changes DOUT and DONE, one that clears DONE and changes DIR, and steps that
change L and R, C and D, and RK. -/
theorem test_witness_result_writers :
    (nextOf (stepAt 0 (stateOf blockLast))).map (fun t => (t.engine.dout, t.engine.done)) =
      some (0x85E813540F0AB405#64, true) ∧
    (nextOf (stepAt 0 (stateOf { keyReady with done := true } [.word (.cmd 3#64)]))).map
      (fun t => (t.engine.done, t.engine.dir)) = some (false, true) ∧
    (nextOf (stepAt 0 (stateOf blockStarted))).map (fun t => (t.engine.l, t.engine.r)) =
      some (0xCC00CCFF#32, 0xF0AAF0AA#32) ∧
    (nextOf (stepAt 0 (stateOf keyStarted))).map (fun t => (t.engine.c, t.engine.d)) = some (0xF0CCAAF#28, 0x556678F#28) ∧
    (nextOf (stepAt 0 (stateOf (keyRound 1 0xF0CCAAF#28 0x556678F#28)))).map (fun t => t.engine.readRK 0) =
      some 0x1B02EFFC7072#48 := by decide +kernel

/-- EveryInstructionCompletes: an instruction that observes. KeyMaterialIsNotObservable: two engines with different keys
and one view, and a transaction in both. -/
theorem test_witness_secret :
    observes (.rdStatus 0#64) = true ∧ keyReady.hostView = { keyReady with key := 5#64, rk := Vector.replicate 16 0#48 }.hostView ∧
    (∃ t, exec .encrypt (stateOf keyReady) = .next t) ∧
    (∃ t, exec .encrypt (stateOf { keyReady with key := 5#64, rk := Vector.replicate 16 0#48 }) = .next t) :=
  ⟨rfl, rfl, ⟨_, rfl⟩, ⟨_, rfl⟩⟩

/-- InstancesShareNothing: the second of two instances takes a step. -/
theorem test_witness_instances :
    ∃ q, Platform.step 1 { engines := [stateOf keyReady, stateOf blockLast [.engineStep]] } = .next q := ⟨_, rfl⟩

end Sys2Proof.Tests
end

section
/-! PROOFS. The family of 10_state.md: the layout of STATUS (R22, R23) and the state after RESET (R35, R142). -/

namespace Sys2Proof.Machine

/-! ## STATUS -/

section StatusFields
variable (e : Engine)

theorem getLsbD_status_busy : e.status.getLsbD 0 = e.busy := by
  rw [getLsbD_status]
  simp

theorem getLsbD_status_done : e.status.getLsbD 1 = e.done := by
  rw [getLsbD_status]
  simp

theorem getLsbD_status_kv : e.status.getLsbD 2 = e.kv := by
  rw [getLsbD_status]
  simp

theorem getLsbD_status_err : e.status.getLsbD 3 = e.err := by
  rw [getLsbD_status]
  simp

theorem getLsbD_status_dir : e.status.getLsbD 8 = e.dir := by
  rw [getLsbD_status]
  simp

/-- A field of STATUS is a value `x` when its bits are those of `x`. -/
theorem extractLsb'_status_eq {start n : Nat} {x : BitVec n}
    (h : ∀ i < n, e.status.getLsbD (start + i) = x.getLsbD i) : e.status.extractLsb' start n = x := by
  apply BitVec.eq_of_getLsbD_eq
  intro i hi
  rw [BitVec.getLsbD_extractLsb', h i hi]
  simp [hi]

theorem extractLsb'_status_errcode : e.status.extractLsb' 4 4 = e.errcode := by
  apply extractLsb'_status_eq
  intro i hi
  rw [getLsbD_status]
  simp (disch := omega) only [if_neg, if_pos, decide_eq_true, Bool.true_and]
  congr 1
  omega

theorem extractLsb'_status_phase : e.status.extractLsb' 9 3 = e.phase.code := by
  apply extractLsb'_status_eq
  intro i hi
  rw [getLsbD_status]
  simp (disch := omega) only [if_neg, if_pos, decide_eq_true, Bool.true_and]
  congr 1
  omega

/-- The bits of STATUS from 12 up are those of ROUND, and so 0 from bit 17 up. -/
theorem getLsbD_status_of_ge (i : Nat) (hi : 12 + i < 64) : e.status.getLsbD (12 + i) = e.round.getLsbD i := by
  rw [getLsbD_status]
  simp (disch := omega) only [if_neg, decide_eq_true, Bool.true_and]
  congr 1
  omega

theorem extractLsb'_status_round : e.status.extractLsb' 12 5 = e.round :=
  extractLsb'_status_eq e fun i hi => getLsbD_status_of_ge e i (by omega)

theorem extractLsb'_status_reserved : e.status.extractLsb' 17 47 = 0#47 := by
  apply extractLsb'_status_eq
  intro i hi
  calc e.status.getLsbD (17 + i)
      _ = e.status.getLsbD (12 + (5 + i)) := by rw [← Nat.add_assoc]
      _ = e.round.getLsbD (5 + i) := getLsbD_status_of_ge e (5 + i) (by omega)
      _ = false := BitVec.getLsbD_of_ge _ _ (by omega)
      _ = (0#47).getLsbD i := BitVec.getLsbD_zero.symm

theorem statusShowsResult_status : statusShowsResult e.status = e.resultReady := by
  rw [statusShowsResult, getLsbD_status_busy, getLsbD_status_done, getLsbD_status_err, Engine.resultReady]

end StatusFields

/-- R22: a read of STATUS shows the value composed from the state. -/
theorem exec_rdStatus (data : Word) (s : State) :
    exec (.rdStatus data) s = .next (s.observe s.engine.status) := rfl

/-- R22: STATUS is read-only. -/
theorem exec_wrStatus (data : Word) (s : State) :
    exec (.wrStatus data) s = .next (s.withEngine (s.engine.recordError .illegalAccess)) := rfl

/-- Settles O2: each field of STATUS bit by bit, and the two transactions of the register. -/
theorem statusWordLayout : Obligations.StatusWordLayout := by
  refine ⟨fun e => ?_, fun data s => ⟨exec_rdStatus data s, exec_wrStatus data s⟩⟩
  exact ⟨getLsbD_status_busy e, busy_eq_true, getLsbD_status_done e, getLsbD_status_kv e, getLsbD_status_err e,
    extractLsb'_status_errcode e, getLsbD_status_dir e, extractLsb'_status_phase e, extractLsb'_status_round e,
    extractLsb'_status_reserved e, statusShowsResult_status e⟩

/-! ## RESET -/

/-- A RESET event takes its turn, whatever the state: the engine is reset, and only the agenda moves on beside it. -/
theorem stepAt_of_resetEvent {base : Nat} {s : State} (h : s.action base = .resetEvent) :
    stepAt base s = .next (s.popEvent.withEngine Engine.reset) := by
  rw [stepAt, h, perform, resetEvent_eq]

/-- The engine's state after a RESET event does not depend on the state before it (R142). -/
theorem engine_eq_reset_of_stepAt {base : Nat} {s t : State} (h : s.action base = .resetEvent)
    (hst : stepAt base s = .next t) : t.engine = Engine.reset := by
  cases (stepAt_of_resetEvent h).symm.trans hst
  rfl

/-- A RESET event at the head of the agenda is what happens next. -/
theorem action_of_agenda_reset {base : Nat} {s : State} {rest : List Event} (h : s.agenda = .reset :: rest) :
    s.action base = .resetEvent := by
  rw [State.action, State.nextEvent, h, List.headD_cons, interpret]

theorem readRK_reset (i : Fin 16) : Engine.reset.readRK i = 0x000000000000#48 := by
  simp [Engine.readRK, Engine.reset]

theorem status_reset : Engine.reset.status = 0x0000000000000000#64 := by decide

/-- Settles O1: a RESET event puts `Engine.reset` in place of whatever the engine held. -/
theorem resetSetsEveryPieceOfState : Obligations.ResetSetsEveryPieceOfState := by
  refine ⟨fun base s h => ?_, fun base s s' t t' h h' hst hst' => ?_, fun base s t t' hs hst htt => ?_⟩
  · exact ⟨_, stepAt_of_resetEvent h, rfl, rfl, rfl, rfl, rfl, rfl, rfl, rfl, rfl, rfl, rfl, rfl, rfl, rfl,
      readRK_reset, status_reset, rfl⟩
  · rw [engine_eq_reset_of_stepAt h hst, engine_eq_reset_of_stepAt h' hst']
  · have hfirst : s.action base = .resetEvent := action_of_agenda_reset hs
    obtain ⟨hagenda, -⟩ := stepAt_cases hst
    rw [hs, List.tail_cons] at hagenda
    have hsecond : t.action base = .resetEvent := action_of_agenda_reset hagenda
    rw [engine_eq_reset_of_stepAt hfirst hst, engine_eq_reset_of_stepAt hsecond htt]

end Sys2Proof.Machine
end

section
/-! PROOFS. The family of 20_memory.md: the register a platform access reaches (R38) and the accesses a model refuses
(R39). -/

namespace Sys2Proof.Machine

/-! ## The register block -/

/-- R38: the 64 bytes of the block are the eight registers' bytes, so the model's range and alignment check is the
rule's `DES_BASE + 8*idx`. -/
theorem accessIndex_eq_some_iff {base : Nat} {a : Access} {idx : BitVec 3} :
    accessIndex base a = some idx ↔ a.size = 8 ∧ a.addr = base + 8 * idx.toNat := by
  have hidx : idx.toNat < 8 := idx.isLt
  simp only [accessIndex, Option.ite_none_right_eq_some, Option.some.injEq, ← BitVec.toNat_inj, BitVec.toNat_ofNat]
  constructor
  · rintro ⟨⟨hsize, hlow, hhigh, haligned⟩, hquot⟩
    exact ⟨hsize, by omega⟩
  · rintro ⟨hsize, haddr⟩
    exact ⟨⟨hsize, by omega⟩, by omega⟩

theorem accessIndex_eq_none_iff {base : Nat} {a : Access} :
    accessIndex base a = none ↔ a.size ≠ 8 ∨ ∀ idx : BitVec 3, a.addr ≠ base + 8 * idx.toNat := by
  simp only [Option.eq_none_iff_forall_ne_some, ne_eq, accessIndex_eq_some_iff, not_and, imp_iff_not_or, forall_or_left]

/-! ## The transaction of an access -/

/-- The instruction an access to register `idx` asks for. -/
def accessInstr (a : Access) (idx : BitVec 3) : Instr :=
  if a.write then writeInstr (.ofBits idx) a.data else readInstr (.ofBits idx) 0#64

/-- The two fields of a transaction word's first digit (R53). -/
theorem digit_fields (w : Bool) (idx : BitVec 3) :
    (BitVec.ofBool w ++ idx).getLsbD 3 = w ∧ (BitVec.ofBool w ++ idx).extractLsb' 0 3 = idx := by
  revert w idx
  decide

theorem accessTxn_of_index {base : Nat} {a : Access} {idx : BitVec 3} (h : accessIndex base a = some idx) :
    accessTxn base a = some (encodeTxn (BitVec.ofBool a.write ++ idx) (if a.write then a.data else 0#64)) := by
  rw [accessTxn, h, encodeTxn]

theorem decodeTxn_access (a : Access) (idx : BitVec 3) :
    decodeTxn (encodeTxn (BitVec.ofBool a.write ++ idx) (if a.write then a.data else 0#64)) = accessInstr a idx := by
  obtain ⟨hw, hreg⟩ := digit_fields a.write idx
  rw [decodeTxn_encodeTxn, hw, hreg, accessInstr]
  cases a.write <;> rfl

section Step
variable {base : Nat} {s : State} {a : Access} (hev : s.nextEvent = .access a)
include hev

theorem stepAt_of_access {idx : BitVec 3} (hidx : accessIndex base a = some idx) :
    stepAt base s = exec (accessInstr a idx) s.popEvent := by
  rw [stepAt, State.action, hev, interpret, accessTxn_of_index hidx, perform, decodeTxn_access]

theorem stepAt_of_access_refused (hidx : accessIndex base a = none) :
    stepAt base s = .refused .notATransaction := by
  rw [stepAt, State.action, hev, interpret, accessTxn, hidx, perform]

end Step

/-- Settles O54: an access is a transaction exactly when `accessIndex` names its register. -/
theorem platformAccessesReachTheirRegister : Obligations.PlatformAccessesReachTheirRegister := by
  refine ⟨fun k => ?_, fun base s idx v => ⟨fun hev => ?_, fun hev => ?_⟩, fun base s a hev hbad => ?_⟩
  · rw [Config.desBase]
    omega
  · exact stepAt_of_access hev (accessIndex_eq_some_iff.mpr ⟨rfl, rfl⟩)
  · exact stepAt_of_access hev (accessIndex_eq_some_iff.mpr ⟨rfl, rfl⟩)
  · exact stepAt_of_access_refused hev (accessIndex_eq_none_iff.mpr hbad)

end Sys2Proof.Machine
end

section
/-! PROOFS. The family of 30_encoding.md: the reserved command values (R57). -/

namespace Sys2Proof.Machine

/-! ## The instruction of a word -/

/-- A word at the head of the agenda runs its instruction. -/
theorem stepAt_of_word {base : Nat} {s : State} {w : CodeWord} (hev : s.nextEvent = .word w) :
    stepAt base s = exec (instrOf w) s.popEvent := by
  rw [stepAt, State.action, hev, interpret, perform]

/-- R54: the digit 0xB is a write to CMD, whatever its value. -/
theorem instrOf_wrCmdTxn (v : Word) : instrOf (.txn (0xB#4 ++ v)) = .wrCmd v :=
  decodeTxn_encodeTxn 0xB#4 v

/-! ## The reserved values -/

/-- R57: a value is reserved, by its two fields, exactly when it is above the four of R56. -/
theorem cmdReserved_iff {v : Word} : cmdRsv v ≠ 0#56 ∨ (cmdOp v).toNat > 0x03 ↔ 3 < v.toNat := by
  have hop : (cmdOp v).toNat = v.toNat % 256 := by simp [cmdOp]
  have hrsv : (cmdRsv v).toNat = v.toNat / 256 := by
    rw [cmdRsv, BitVec.extractLsb'_toNat, Nat.shiftRight_eq_div_pow]
    omega
  rw [ne_eq, ← BitVec.toNat_inj, hop, hrsv, BitVec.toNat_ofNat]
  omega

section Reserved
variable {v : Word} (hv : 3 < v.toNat)
include hv

theorem decode_of_reserved : decode (.cmd v) = .error (.reservedCommand v) := by
  have hne : ∀ c : Word, c.toNat ≤ 3 → v ≠ c := fun c hc h => by
    subst h
    omega
  rw [decode, decodeCmd, if_neg (hne _ (by decide)), if_neg (hne _ (by decide)), if_neg (hne _ (by decide)),
    if_neg (hne _ (by decide))]

/-- A reserved value runs as the write to CMD that carries it. -/
theorem instrOf_of_reserved : instrOf (.cmd v) = .wrCmd v := by
  rw [instrOf, decode_of_reserved hv]

/-- The check of ERR before the command and the one inside `RecordError` come to the same. -/
theorem exec_wrCmd_of_reserved (s : State) :
    exec (.wrCmd v) s = .next (s.withEngine (s.engine.recordError .illegalCommand)) := by
  rw [exec, execWrCmd, issue, acceptCmdWrite, if_pos (cmdReserved_iff.mpr hv), raiseError_eq]
  split
  case isTrue herr => rw [recordError_of_err _ _ herr, withEngine_self]
  case isFalse => rfl

end Reserved

/-- Settles O8: either form of the event runs the write to CMD, which records ILLEGAL_COMMAND unless ERR was 1. -/
theorem reservedCommandsRaiseIllegalCommand : Obligations.ReservedCommandsRaiseIllegalCommand := by
  intro v h0 h1 h2 h3
  have hv : 3 < v.toNat := by bv_omega
  refine ⟨(cmdReserved_iff.mpr hv).symm, decode_of_reserved hv, fun base s hev => ?_⟩
  have hstep : stepAt base s = .next (s.popEvent.withEngine (s.engine.recordError .illegalCommand)) := by
    obtain hcmd | htxn := hev
    · rw [stepAt_of_word hcmd, instrOf_of_reserved hv, exec_wrCmd_of_reserved hv, popEvent_engine]
    · rw [stepAt_of_word htxn, instrOf_wrCmdTxn, exec_wrCmd_of_reserved hv, popEvent_engine]
  rw [hstep]
  constructor
  · intro herr
    rw [recordError_of_not_err _ _ herr]
    rfl
  · intro herr
    rw [recordError_of_err _ _ herr]
    rfl

end Sys2Proof.Machine
end

section
/-! PROOFS. The family of 40_permutation.md: the final permutation inverts the initial one (R66). -/

namespace Sys2Proof.Machine

/-! ## DES positions -/

/-- A value is the one its DES positions say. -/
theorem eq_of_desPos_eq {n : Nat} {v w : BitVec n} (h : ∀ j : Nat, 1 ≤ j → j ≤ n → desPos v j = desPos w j) : v = w := by
  apply BitVec.eq_of_getLsbD_eq
  intro i hi
  have hpos := h (n - i) (by omega) (by omega)
  rwa [desPos, desPos, Nat.sub_sub_self hi.le] at hpos

/-- R61: output DES position j of a permutation is input DES position T[j]. -/
theorem desPos_permute {n m : Nat} (v : BitVec n) (t : PermTable n m) {j : Nat} (h1 : 1 ≤ j) (hm : j ≤ m) :
    desPos (permute v t) j = desPos v (t.entry j) := by
  have hlt : m - j < m := by omega
  rw [desPos, getLsbD_permute, decide_eq_true hlt, Bool.true_and, Nat.sub_sub_self hm, desPos]

/-! ## Inverse tables -/

/-- Where the first table undoes the second entry by entry, the second permutation undoes the first. -/
theorem permute_permute_of_entry_entry {n m : Nat} {t : PermTable n m} {u : PermTable m n}
    (h : ∀ j : Nat, 1 ≤ j → j ≤ n → t.entry (u.entry j) = j) (v : BitVec n) : permute (permute v t) u = v := by
  apply eq_of_desPos_eq
  intro j h1 hn
  obtain ⟨hu1, hum⟩ := u.entry_range h1 hn
  rw [desPos_permute _ u h1 hn, desPos_permute v t hu1 hum, h j h1 hn]

theorem tableFP_entry_tableIP_entry : ∀ j : Nat, 1 ≤ j → j ≤ 64 → tableFP.entry (tableIP.entry j) = j := by decide

theorem tableIP_entry_tableFP_entry : ∀ j : Nat, 1 ≤ j → j ≤ 64 → tableIP.entry (tableFP.entry j) = j := by decide

/-- Settles O38: the tables invert each other entry by entry, so the permutations do on every value. -/
theorem finalPermutationInvertsInitial : Obligations.FinalPermutationInvertsInitial := by
  refine ⟨fun v => ⟨?_, ?_⟩, fun j h1 h64 => ⟨?_, ?_⟩⟩
  · exact permute_permute_of_entry_entry tableIP_entry_tableFP_entry v
  · exact permute_permute_of_entry_entry tableFP_entry_tableIP_entry v
  · exact tableFP_entry_tableIP_entry j h1 h64
  · exact tableIP_entry_tableFP_entry j h1 h64

end Sys2Proof.Machine
end

section
/-! PROOFS. The family of 41_key_schedule.md: the rotation of a key half (R73), the sixteen rotations of the schedule
(R72) and the KS_INITIAL step (R77). -/

namespace Sys2Proof.Machine

/-! ## The rotation -/

/-- R73's position law, for every amount up to a whole turn. -/
theorem desPos_rotl28 (x : KeyHalf) {s p : Nat} (hs : s ≤ 28) (h1 : 1 ≤ p) (h28 : p ≤ 28) :
    desPos (rotl28 x s) p = desPos x ((p - 1 + s) % 28 + 1) := by
  have hp : 28 - p < 28 := by omega
  simp only [desPos, rotl28, BitVec.getLsbD_or, BitVec.getLsbD_shiftLeft, BitVec.getLsbD_ushiftRight, hp,
    decide_true, Bool.true_and]
  by_cases hwrap : 28 - p < s
  · have hbit : 28 - ((p - 1 + s) % 28 + 1) = 28 - s + (28 - p) := by omega
    simp [hwrap, hbit]
  · have hbit : 28 - ((p - 1 + s) % 28 + 1) = 28 - p - s := by omega
    have hout : x.getLsbD (28 - s + (28 - p)) = false := BitVec.getLsbD_of_ge _ _ (by omega)
    simp [hwrap, hbit, hout]

/-- Two rotations that make no more than a whole turn are one. -/
theorem rotl28_rotl28 (x : KeyHalf) {s t : Nat} (h : s + t ≤ 28) : rotl28 (rotl28 x s) t = rotl28 x (s + t) := by
  apply eq_of_desPos_eq
  intro p h1 h28
  have hmod : ((p - 1 + t) % 28 + 1 - 1 + s) % 28 = (p - 1 + (s + t)) % 28 := by omega
  rw [desPos_rotl28 _ (by omega) h1 h28, desPos_rotl28 x (by omega) (by omega) (by omega), hmod,
    desPos_rotl28 x h h1 h28]

/-- No turn and a whole turn change nothing. -/
theorem rotl28_eq_self (x : KeyHalf) {s : Nat} (hs : s = 0 ∨ s = 28) : rotl28 x s = x := by
  apply eq_of_desPos_eq
  intro p h1 h28
  have hmod : (p - 1 + s) % 28 + 1 = p := by omega
  rw [desPos_rotl28 x (by omega) h1 h28, hmod]

/-- Settles O40: the position law at the two amounts of SHIFT, and the two constant halves. -/
theorem rotationIsCircular : Obligations.RotationIsCircular := by
  intro x s hs
  refine ⟨fun p h1 h28 => desPos_rotl28 x (by omega) h1 h28, ?_⟩
  obtain rfl | rfl := hs <;> decide

/-! ## The sixteen rotations -/

/-- SHIFT[1] + ... + SHIFT[n]: how far the first n rounds have turned each key half. -/
def shiftSum (n : Nat) : Nat := (shiftTable.toList.take n).sum

theorem shiftSum_succ : ∀ i : Fin 16, shiftSum (i.val + 1) = shiftSum i.val + shiftAmount i := by decide

theorem shiftSum_sixteen : shiftSum 16 = 28 := by decide

theorem shiftSum_le : ∀ n ≤ 16, shiftSum n ≤ 28 := by decide

/-- C_n and D_n are C0 and D0 turned by the first n amounts together. -/
theorem keyHalvesAfter_eq_rotl28 (key : Word) (n : Nat) (hn : n ≤ 16) :
    keyHalvesAfter key n =
      (rotl28 (initialKeyHalves key).1 (shiftSum n), rotl28 (initialKeyHalves key).2 (shiftSum n)) := by
  induction n with
  | zero => exact Prod.ext (rotl28_eq_self _ (.inl rfl)).symm (rotl28_eq_self _ (.inl rfl)).symm
  | succ n ih =>
    have hlt : n < 16 := hn
    have hsum : shiftSum (n + 1) = shiftSum n + shiftAmount ⟨n, hlt⟩ := shiftSum_succ ⟨n, hlt⟩
    have hle : shiftSum n + shiftAmount ⟨n, hlt⟩ ≤ 28 := hsum ▸ shiftSum_le (n + 1) hn
    rw [keyHalvesAfter, dif_pos hlt, ih (by omega), rotateKeyHalves, rotl28_rotl28 _ hle, rotl28_rotl28 _ hle, hsum]

/-- Settles O41: the amounts sum to a whole turn, which changes neither half. -/
theorem keyHalvesReturnAfterSixteenRounds : Obligations.KeyHalvesReturnAfterSixteenRounds := by
  refine ⟨by decide, rfl, rfl, fun key => ?_⟩
  rw [keyHalvesAfter_eq_rotl28 key 16 le_rfl, rotl28_eq_self _ (.inr shiftSum_sixteen),
    rotl28_eq_self _ (.inr shiftSum_sixteen), keyHalvesAfter]

/-! ## The KS_INITIAL step -/

/-- In a state of R34, PHASE = KS_INITIAL names the step of R77. -/
theorem engineStep_of_ksInitial {e : Engine} (hl : e.legal = true) (hp : e.phase = .ksInitial) :
    engineStep e = some (stepKsInitial e) := by
  rw [engineStep, if_pos hl, hp]

/-- R77's example. -/
theorem initialKeyHalves_example : initialKeyHalves 0x133457799BBCDFF1#64 = (0xF0CCAAF#28, 0x556678F#28) := by
  decide +kernel

/-- Settles O19: the step is `stepKsInitial`, whose two halves are those of PC1 of KEY. -/
theorem ksInitialStepLoadsHalves : Obligations.KsInitialStepLoadsHalves := by
  intro e hl hp
  have hstep := engineStep_of_ksInitial hl hp
  refine ⟨hstep, fun hkey => ⟨_, hstep, ?_, ?_⟩⟩ <;> rw [stepKsInitial, hkey, initialKeyHalves_example]

end Sys2Proof.Machine
end

section
/-! PROOFS. The family of 42_sbox.md: the substitution of a 48-bit value chunk by chunk (R89) and the checks the spec
gives on its fixed tables (R67, R69, R71, R91). -/

namespace Sys2Proof.Machine

/-! ## The substitution -/

/-- R89: the output of S(j+1) stands in the result at the bits from 28 - 4j. The outputs after it are passed over one by
one, and the outputs before it are cut off. -/
theorem extractLsb'_sboxSubstitute (x : BitVec 48) (j : Fin 8) :
    (sboxSubstitute x).extractLsb' (28 - 4 * j.val) 4 = sboxLookup j (sboxChunk x j) := by
  rw [sboxSubstitute]
  fin_cases j <;> simp (disch := decide) only [BitVec.extractLsb'_append_eq_of_le]
  · exact BitVec.extractLsb'_eq_self
  all_goals exact BitVec.extractLsb'_append_eq_right

/-- A field of `len` bits from bit `start` up has the DES positions of the value that follow the n - (start + len) more
significant ones (R11). -/
theorem desPos_extractLsb' {n : Nat} (v : BitVec n) {start len i : Nat} (hn : start + len ≤ n) (h1 : 1 ≤ i)
    (hi : i ≤ len) : desPos (v.extractLsb' start len) i = desPos v (n - (start + len) + i) := by
  have hlt : len - i < len := by omega
  have hbit : n - (n - (start + len) + i) = start + (len - i) := by omega
  rw [desPos, desPos, BitVec.getLsbD_extractLsb', decide_eq_true hlt, Bool.true_and, hbit]

/-- R89: chunk j is DES positions 6j+1 .. 6j+6 of the input. -/
theorem desPos_sboxChunk (x : BitVec 48) (j : Fin 8) {i : Nat} (h1 : 1 ≤ i) (h6 : i ≤ 6) :
    desPos (sboxChunk x j) i = desPos x (6 * j.val + i) := by
  have hskip : 48 - (42 - 6 * j.val + 6) = 6 * j.val := by omega
  rw [sboxChunk, desPos_extractLsb' x (by omega) h1 h6, hskip]

/-- R89: the output of S(j+1) is DES positions 4j+1 .. 4j+4 of the result. -/
theorem desPos_sboxSubstitute (x : BitVec 48) (j : Fin 8) {i : Nat} (h1 : 1 ≤ i) (h4 : i ≤ 4) :
    desPos (sboxSubstitute x) (4 * j.val + i) = desPos (sboxLookup j (sboxChunk x j)) i := by
  have hskip : 32 - (28 - 4 * j.val + 4) = 4 * j.val := by omega
  rw [← extractLsb'_sboxSubstitute, desPos_extractLsb' _ (by omega) h1 h4, hskip]

/-- R89's two corner cases and its example. -/
theorem sboxSubstitute_examples :
    sboxSubstitute 0x000000000000#48 = 0xEFA72C4D#32 ∧ sboxSubstitute 0xFFFFFFFFFFFF#48 = 0xD9CE3DCB#32 ∧
    sboxSubstitute 0x6117BA866527#48 = 0x5C82B597#32 := by decide

/-- Settles O44: each output is the lookup of its chunk, and the position laws say where chunk and output stand. -/
theorem substitutionIsChunkwise : Obligations.SubstitutionIsChunkwise := by
  refine ⟨fun x j => ⟨?_, fun i h1 h6 => ?_, fun i h1 h4 => ?_⟩, sboxSubstitute_examples⟩
  · exact extractLsb'_sboxSubstitute x j
  · exact desPos_sboxChunk x j h1 h6
  · exact desPos_sboxSubstitute x j h1 h4

/-! ## The checks of the fixed tables -/

/-- R91, the first check. -/
theorem sboxes_row_perm_range (j : Fin 8) (row : Fin 4) :
    (sboxes[j][row].toList.map BitVec.toNat).Perm (List.range 16) := by
  decide +revert

/-- R91, the second check. -/
theorem two_le_sboxLookup_changed_bits (j : Fin 8) (x : BitVec 6) (b : Fin 6) :
    2 ≤ ((List.range 4).filter fun i =>
      (sboxLookup j x ^^^ sboxLookup j (x ^^^ (1#6 <<< b.val))).getLsbD i).length := by
  decide +revert +kernel

/-- R67: E takes sixteen positions twice and the other sixteen once. -/
theorem tableE_count (p : Fin 32) : tableE.entries.count (p.val + 1) =
    if p.val + 1 ∈ [1, 4, 5, 8, 9, 12, 13, 16, 17, 20, 21, 24, 25, 28, 29, 32] then 2 else 1 := by
  decide +revert

/-- R69: PC1 leaves out the eight parity positions. -/
theorem tablePC1_perm : tablePC1.entries.Perm ((List.range 65).filter fun p => p % 8 ≠ 0) := by decide

/-- R71: PC2 takes no position twice, and makes its first half from C and its second from D. -/
theorem tablePC2_halves : tablePC2.entries.Nodup ∧ (∀ p ∈ tablePC2.entries.take 24, p ≤ 28) ∧
    (∀ p ∈ tablePC2.entries.drop 24, 29 ≤ p) := by decide

/-- Settles O43: each check is a finite one on a fixed table. -/
theorem fixedTablesPassTheirChecks : Obligations.FixedTablesPassTheirChecks :=
  ⟨sboxes_row_perm_range, two_le_sboxLookup_changed_bits, tableE_count, tablePC1_perm, tablePC2_halves⟩

end Sys2Proof.Machine
end

section
/-! PROOFS. The family of 43_feistel.md: the round function as its four steps (R92). -/

namespace Sys2Proof.Machine

/-! ## The four steps -/

/-- R92: E, the exclusive-or with the subkey, the S-boxes, P. -/
theorem feistel_eq (r : Half) (k : RoundKey) :
    feistel r k = permute (sboxSubstitute (permute r tableE ^^^ k)) tableP := rfl

/-- R92: the exclusive-or is all the S-boxes see of r and k. -/
theorem feistel_congr {r r' : Half} {k k' : RoundKey} (h : permute r tableE ^^^ k = permute r' tableE ^^^ k') :
    feistel r k = feistel r' k' := by
  rw [feistel_eq, feistel_eq, h]

/-- A value of f from the intermediate values of its steps. -/
theorem feistel_of_steps {r s y : Half} {k x : RoundKey} (hE : permute r tableE ^^^ k = x) (hS : sboxSubstitute x = s)
    (hP : permute s tableP = y) : feistel r k = y := by
  rw [feistel_eq, hE, hS, hP]

/-! ## R92's values -/

/-- The exclusive-ors of R92's corner cases and example; the second and the third are equal. -/
theorem permute_tableE_xor_examples :
    permute 0x00000000#32 tableE ^^^ 0x000000000000#48 = 0x000000000000#48 ∧
    permute 0xFFFFFFFF#32 tableE ^^^ 0x000000000000#48 = 0xFFFFFFFFFFFF#48 ∧
    permute 0x00000000#32 tableE ^^^ 0xFFFFFFFFFFFF#48 = 0xFFFFFFFFFFFF#48 ∧
    permute 0xF0AAF0AA#32 tableE ^^^ 0x1B02EFFC7072#48 = 0x6117BA866527#48 := by decide +kernel

/-- P of the three outputs of R89's corner cases and example. -/
theorem permute_tableP_examples :
    permute 0xEFA72C4D#32 tableP = 0xD8D8DBBC#32 ∧ permute 0xD9CE3DCB#32 tableP = 0x38DBF9CB#32 ∧
    permute 0x5C82B597#32 tableP = 0x234AA9BB#32 := by decide +kernel

/-- R92's corner cases and example: the inputs of the S-boxes are those of R89's, and the third corner case has the
second's. -/
theorem feistel_examples :
    feistel 0x00000000#32 0x000000000000#48 = 0xD8D8DBBC#32 ∧ feistel 0xFFFFFFFF#32 0x000000000000#48 = 0x38DBF9CB#32 ∧
    feistel 0x00000000#32 0xFFFFFFFFFFFF#48 = 0x38DBF9CB#32 ∧
    feistel 0xF0AAF0AA#32 0x1B02EFFC7072#48 = 0x234AA9BB#32 := by
  obtain ⟨hEzero, hEones, hEonesKey, hEexample⟩ := permute_tableE_xor_examples
  obtain ⟨hSzero, hSones, hSexample⟩ := sboxSubstitute_examples
  obtain ⟨hPzero, hPones, hPexample⟩ := permute_tableP_examples
  have hones : feistel 0xFFFFFFFF#32 0x000000000000#48 = 0x38DBF9CB#32 := feistel_of_steps hEones hSones hPones
  refine ⟨feistel_of_steps hEzero hSzero hPzero, hones, ?_, feistel_of_steps hEexample hSexample hPexample⟩
  exact (feistel_congr (hEonesKey.trans hEones.symm)).trans hones

/-- Settles O45: the composition, the dependence on the exclusive-or alone, and the values step by step. -/
theorem feistelComposesItsFourSteps : Obligations.FeistelComposesItsFourSteps :=
  ⟨feistel_eq, fun _ _ _ _ => feistel_congr, feistel_examples⟩

end Sys2Proof.Machine
end

section
/-! PROOFS. The family of 44_block_engine.md: the order of the subkeys (R96) and the engine steps BLK_INITIAL (R101) and
BLK_ROUND (R102). -/

namespace Sys2Proof.Machine

/-! ## The subkey of a round -/

/-- R96, encryption: RK in forward order. -/
theorem subkey_of_dir_false {e : Engine} (h : e.dir = false) (i : Fin 16) : e.subkey i = e.readRK i := by
  rw [Engine.subkey, h, if_neg Bool.false_ne_true]

/-- R96, decryption: RK in reverse order, entry 17 - i of the spec in round i. -/
theorem subkey_of_dir_true {e : Engine} {i j : Fin 16} (h : e.dir = true) (hj : j.val + 1 = 17 - (i.val + 1)) :
    e.subkey i = e.readRK j := by
  have hval : 15 - i.val = j.val := by omega
  have hidx : (⟨15 - i.val, by omega⟩ : Fin 16) = j := Fin.ext hval
  rw [Engine.subkey, if_pos h, hidx]

/-- Settles O24: the two directions of `Engine.subkey`. -/
theorem subkeyOrderFollowsDirection : Obligations.SubkeyOrderFollowsDirection :=
  fun _ i _ => ⟨fun hdir => subkey_of_dir_false hdir i, subkey_of_dir_true⟩

/-! ## The BLK_INITIAL step -/

/-- In a state of R34, PHASE = BLK_INITIAL names the step of R101. -/
theorem engineStep_of_blkInitial {e : Engine} (hl : e.legal = true) (hp : e.phase = .blkInitial) :
    engineStep e = some (stepBlkInitial e) := by
  rw [engineStep, if_pos hl, hp]

/-- R101's example. -/
theorem initialHalves_example : initialHalves 0x0123456789ABCDEF#64 = (0xCC00CCFF#32, 0xF0AAF0AA#32) := by
  decide +kernel

/-- Settles O21: the step is `stepBlkInitial`, whose two halves are those of IP of DIN. -/
theorem blkInitialStepSplitsBlock : Obligations.BlkInitialStepSplitsBlock := by
  intro e hl hp
  have hstep := engineStep_of_blkInitial hl hp
  refine ⟨hstep, fun hdin => ⟨_, hstep, ?_, ?_⟩⟩ <;> rw [stepBlkInitial, hdin, initialHalves_example]

/-! ## The BLK_ROUND step -/

/-- In a state of R34, PHASE = BLK_ROUND and ROUND name the step of R102. -/
theorem engineStep_of_blkRound {e : Engine} {i : Fin 16} (hl : e.legal = true) (hp : e.phase = .blkRound)
    (hr : e.round.toNat = i.val + 1) : engineStep e = some (stepBlkRound i e) := by
  rw [engineStep, if_pos hl, hp]
  dsimp only
  rw [roundIndex_eq_some.mpr hr, Option.map_some]

/-- R102, round 16: a full round, ROUND kept. -/
theorem stepBlkRound_last (e : Engine) {i : Fin 16} (hi : i.val + 1 = 16) :
    stepBlkRound i e = { e with l := e.r, r := e.l ^^^ feistel e.r (e.subkey i), phase := .blkFinal } := by
  rw [stepBlkRound, if_pos hi, roundHalves, xorBits]

/-- R102, rounds 1 to 15: a full round, ROUND moved on. -/
theorem stepBlkRound_not_last (e : Engine) {i : Fin 16} (hi : i.val + 1 ≠ 16) :
    stepBlkRound i e = { e with l := e.r, r := e.l ^^^ feistel e.r (e.subkey i), round := e.round + 1#5 } := by
  rw [stepBlkRound, if_neg hi, roundHalves, xorBits]

/-- ROUND does not wrap before round 16. -/
theorem toNat_round_add_one {round : BitVec 5} {i : Fin 16} (hr : round.toNat = i.val + 1) :
    (round + 1#5).toNat = i.val + 2 := by
  have hi := i.isLt
  bv_omega

/-- R102's example: the new R from f's value of R92's example. -/
theorem xor_feistel_example : 0xCC00CCFF#32 ^^^ feistel 0xF0AAF0AA#32 0x1B02EFFC7072#48 = 0xEF4A6544#32 := by
  obtain ⟨-, -, -, hf⟩ := feistel_examples
  rw [hf]
  decide

/-- Settles O22: the step is `stepBlkRound`, after round 16 and before it; the example is a first round, whose subkey in
encryption is RK[1]. -/
theorem blkRoundStepIsFeistelRound : Obligations.BlkRoundStepIsFeistelRound := by
  intro e i hl hp hr
  have hstep := engineStep_of_blkRound hl hp hr
  refine ⟨fun hi => ?_, fun hi => ⟨e.round + 1#5, toNat_round_add_one hr, ?_⟩, fun hL hR hdir hround hkey => ?_⟩
  case refine_1 => rw [hstep, stepBlkRound_last e hi]
  case refine_2 => rw [hstep, stepBlkRound_not_last e hi]
  case refine_3 =>
    obtain rfl : i = 0 := by
      rw [hround] at hr
      exact Fin.ext (Nat.succ.inj hr).symm
    rw [stepBlkRound_not_last e (by decide), subkey_of_dir_false hdir, hkey, hL, hR, hround,
      xor_feistel_example] at hstep
    exact ⟨_, hstep, rfl, rfl, rfl⟩

end Sys2Proof.Machine
end

section
/-! PROOFS. The family of 45_host_interface.md: WR CMD and NOP (R109, R110), WR KEY (R107), the writes that are errors
(R111, R112), and the reads (R113 to R118). -/

namespace Sys2Proof.Machine

/-! ## Transaction words -/

/-- R54: the first digit of a transaction word names its row, whatever the DATA. -/
theorem decode_txn_append (digit : BitVec 4) (data : Word) : decode (.txn (digit ++ data)) =
    .ok (if digit.getLsbD 3 then writeInstr (.ofBits (digit.extractLsb' 0 3)) data
      else readInstr (.ofBits (digit.extractLsb' 0 3)) data) :=
  congrArg Except.ok (decodeTxn_encodeTxn digit data)

/-! ## The commands -/

section Commands
variable {s : State}

theorem issue_of_err (accept : State → Result) (herr : s.engine.err = true) : issue accept s = .next s := by
  rw [issue, if_pos herr]

theorem issue_of_not_err (accept : State → Result) (herr : s.engine.err = false) : issue accept s = accept s := by
  rw [issue, herr, if_neg Bool.false_ne_true]

/-- R76, accepted. -/
theorem exec_keysched_of_idle (herr : s.engine.err = false) (hbusy : s.engine.busy = false) :
    exec .keysched s = .next (s.withEngine { s.engine with kv := false, phase := .ksInitial, round := 0#5 }) := by
  rw [exec, execKeysched, issue_of_not_err _ herr, acceptKeysched, hbusy, if_neg Bool.false_ne_true]

/-- R99 and R100, accepted. -/
theorem acceptBlock_of_idle (dir : Bool) (hbusy : s.engine.busy = false) (hkv : s.engine.kv = true) :
    acceptBlock dir s =
      .next (s.withEngine { s.engine with dir := dir, done := false, phase := .blkInitial, round := 0#5 }) := by
  rw [acceptBlock, hbusy, if_neg Bool.false_ne_true, if_pos hkv]

theorem exec_encrypt_of_idle (herr : s.engine.err = false) (hbusy : s.engine.busy = false) (hkv : s.engine.kv = true) :
    exec .encrypt s =
      .next (s.withEngine { s.engine with dir := false, done := false, phase := .blkInitial, round := 0#5 }) := by
  rw [exec, execEncrypt, issue_of_not_err _ herr, acceptEncrypt, acceptBlock_of_idle false hbusy hkv]

theorem exec_decrypt_of_idle (herr : s.engine.err = false) (hbusy : s.engine.busy = false) (hkv : s.engine.kv = true) :
    exec .decrypt s =
      .next (s.withEngine { s.engine with dir := true, done := false, phase := .blkInitial, round := 0#5 }) := by
  rw [exec, execDecrypt, issue_of_not_err _ herr, acceptDecrypt, acceptBlock_of_idle true hbusy hkv]

end Commands

/-! ## WR CMD and NOP -/

/-- R110: NOP is accepted without effect, so the check of ERR before it makes no difference. -/
theorem exec_nop (s : State) : exec .nop s = .next s := by
  rw [exec, execNop, issue, acceptNop, ite_self]

/-- R56: the four command values and their commands. -/
theorem decode_cmd_eq_ok {v : Word} {i : Instr} (h : decode (.cmd v) = .ok i) :
    (v = 0#64 ∧ i = .nop) ∨ (v = 1#64 ∧ i = .keysched) ∨ (v = 2#64 ∧ i = .encrypt) ∨ (v = 3#64 ∧ i = .decrypt) := by
  rw [decode, decodeCmd] at h
  split_ifs at h with h0 h1 h2 h3 <;> cases h
  · exact .inl ⟨h0, rfl⟩
  · exact .inr (.inl ⟨h1, rfl⟩)
  · exact .inr (.inr (.inl ⟨h2, rfl⟩))
  · exact .inr (.inr (.inr ⟨h3, rfl⟩))

/-- R109: the write to CMD and the command of its value are one transaction. -/
theorem exec_wrCmd_of_decode {v : Word} {i : Instr} (h : decode (.cmd v) = .ok i) (s : State) :
    exec (.wrCmd v) s = exec i s := by
  obtain ⟨rfl, rfl⟩ | ⟨rfl, rfl⟩ | ⟨rfl, rfl⟩ | ⟨rfl, rfl⟩ := decode_cmd_eq_ok h <;> rfl

theorem exec_wrCmd_zero (s : State) : exec (.wrCmd 0#64) s = .next s := by
  rw [exec_wrCmd_of_decode (i := .nop) rfl, exec_nop]

/-- Settles O7: ERR first, then the decode check, then the command that the value names. -/
theorem wrCmdIssuesItsCommand : Obligations.WrCmdIssuesItsCommand := by
  refine ⟨fun v s => ⟨?decode, ?ignored, ?reserved, ?command⟩, fun s herr hbusy => ?idle, ?afterReset⟩
  case decode => exact decode_txn_append 0xB#4 v
  case ignored => exact issue_of_err _
  case reserved => exact fun _ hres => exec_wrCmd_of_reserved (cmdReserved_iff.mp hres) s
  case command => exact fun _ hv => exec_wrCmd_of_decode hv s
  case idle =>
    refine ⟨exec_wrCmd_zero s, ?_, fun hkv => ⟨?_, ?_⟩⟩
    · rw [exec_wrCmd_of_decode (i := .keysched) rfl, exec_keysched_of_idle herr hbusy]
    · rw [exec_wrCmd_of_decode (i := .encrypt) rfl, exec_encrypt_of_idle herr hbusy hkv]
    · rw [exec_wrCmd_of_decode (i := .decrypt) rfl, exec_decrypt_of_idle herr hbusy hkv]
  case afterReset => exact ⟨_, exec_wrCmd_of_reserved (by decide) _, by decide⟩

/-- Settles O9: NOP is accepted without effect, and is what the value 0 decodes to. -/
theorem nopHasNoEffect : Obligations.NopHasNoEffect :=
  ⟨rfl, decode_txn_append 0xB#4 0#64, fun s => ⟨exec_nop s, exec_wrCmd_zero s⟩⟩

/-! ## Writes that raise an error -/

/-- R124: with ERR = 1 an error leaves the whole state as it was. -/
theorem withEngine_recordError_of_err {s : State} (k : ErrorKind) (herr : s.engine.err = true) :
    s.withEngine (s.engine.recordError k) = s := by
  rw [recordError_of_err _ _ herr, withEngine_self]

/-- R107, accepted. -/
theorem exec_wrKey_of_idle (v : Word) {s : State} (hbusy : s.engine.busy = false) :
    exec (.wrKey v) s = .next (s.withEngine { s.engine with key := v, kv := false }) := by
  rw [exec, execWrKey, hbusy, if_neg Bool.false_ne_true]

/-- R107 while an operation is in progress. -/
theorem exec_wrKey_of_busy (v : Word) {s : State} (hbusy : s.engine.busy = true) :
    exec (.wrKey v) s = .next (s.withEngine (s.engine.recordError .busyViolation)) := by
  rw [exec, execWrKey, if_pos hbusy, raiseError_eq]

/-- Settles O3: idle, busy, and busy with an error recorded before. -/
theorem wrKeyLoadsKeyAndClearsKeyValid : Obligations.WrKeyLoadsKeyAndClearsKeyValid := by
  refine fun v s => ⟨decode_txn_append 0x8#4 v, exec_wrKey_of_idle v, fun hbusy => ⟨exec_wrKey_of_busy v hbusy,
    fun herr => ?_⟩, _, exec_wrKey_of_idle _ (by decide), by decide, rfl⟩
  rw [exec_wrKey_of_busy v hbusy, withEngine_recordError_of_err _ herr]

/-- R111 and R112: the five writes are ILLEGAL_ACCESS and nothing else, busy or not. -/
theorem exec_of_illegal_write {digit : BitVec 4} {v : Word} {i : Instr}
    (h : (digit, i) ∈ [(0xA#4, Instr.wrDout v), (0xC#4, .wrStatus v), (0xD#4, .wrR5 v), (0xE#4, .wrR6 v),
      (0xF#4, .wrR7 v)]) :
    decode (.txn (digit ++ v)) = .ok i ∧
      ∀ s : State, exec i s = .next (s.withEngine (s.engine.recordError .illegalAccess)) := by
  simp only [List.mem_cons, Prod.mk.injEq, List.not_mem_nil, or_false] at h
  obtain ⟨rfl, rfl⟩ | ⟨rfl, rfl⟩ | ⟨rfl, rfl⟩ | ⟨rfl, rfl⟩ | ⟨rfl, rfl⟩ := h <;>
    exact ⟨decode_txn_append _ v, raiseError_eq .illegalAccess⟩

/-- The example of R111 and R112. -/
theorem status_reset_illegalAccess : (Engine.reset.recordError .illegalAccess).status = 0x0000000000000048#64 := by
  decide

/-- Settles O5: the five writes raise the error, and it is recorded unless ERR was 1. -/
theorem writesToReadOnlyAndUnmappedAreErrors : Obligations.WritesToReadOnlyAndUnmappedAreErrors := by
  refine ⟨fun digit v i h => ?_, ⟨_, rfl, status_reset_illegalAccess⟩, ⟨_, rfl, status_reset_illegalAccess⟩⟩
  obtain ⟨hdecode, hexec⟩ := exec_of_illegal_write h
  refine ⟨hdecode, fun s herr => ?_, fun s herr => ?_⟩
  · rw [hexec, recordError_of_not_err _ _ herr, ErrorKind.code]
  · rw [hexec, withEngine_recordError_of_err _ herr]

/-! ## Reads -/

/-- A read shows the host its register's value and does nothing else. -/
theorem exec_readInstr (idx : RegIndex) (data : Word) (s : State) :
    exec (readInstr idx data) s = .next (s.observe (hostRead s.engine idx)) := by
  cases idx <;> exact answerRead_eq _ s

/-- Settles O6: each register in turn, its word by its first digit and its value by `hostRead`. -/
theorem readsReturnTheirRegister : Obligations.ReadsReturnTheirRegister := fun data s =>
  ⟨fun v => ⟨observe_engine s v, observe_agenda s v, observe_reads s v⟩,
    decode_txn_append 0x0#4 data, exec_readInstr .key data s,
    decode_txn_append 0x1#4 data, exec_readInstr .din data s,
    decode_txn_append 0x2#4 data, exec_readInstr .dout data s,
    decode_txn_append 0x3#4 data, exec_readInstr .cmd data s,
    decode_txn_append 0x4#4 data, exec_readInstr .status data s,
    decode_txn_append 0x5#4 data, exec_readInstr .r5 data s,
    decode_txn_append 0x6#4 data, exec_readInstr .r6 data s,
    decode_txn_append 0x7#4 data, exec_readInstr .r7 data s⟩

end Sys2Proof.Machine
end

section
/-! PROOFS. The family of 60_exceptions.md: the error record (R124, R125), the state after an error (R126), and the order
and the precision of the checks (R127, R129). -/

namespace Sys2Proof.Machine

/-! ## Recording an error -/

/-- Settles O12: the two cases of ERR in `recordError`, and what `raiseError` answers. -/
theorem recordErrorKeepsFirstError : Obligations.RecordErrorKeepsFirstError :=
  fun k s => ⟨recordError_of_not_err s.engine k, recordError_of_err s.engine k, raiseError_eq k s⟩

/-! ## The error record is sticky -/

/-- The same ERR and ERRCODE. -/
def Engine.SameErrorRecord (e e' : Engine) : Prop := e'.err = e.err ∧ e'.errcode = e.errcode

/-- R130: no engine step writes the error record. -/
theorem EngineStepCase.sameErrorRecord {e e' : Engine} (h : EngineStepCase e e') : e.SameErrorRecord e' := by
  cases h with
  | ksInitial _ | blkInitial _ | blkFinal _ => exact ⟨rfl, rfl⟩
  | ksRound i _ _ =>
    unfold stepKsRound
    split <;> exact ⟨rfl, rfl⟩
  | blkRound i _ _ =>
    unfold stepBlkRound
    split <;> exact ⟨rfl, rfl⟩

/-- R140: in IDLE the engine does nothing. -/
theorem EngineStepCase.phase_ne_idle {e e' : Engine} (h : EngineStepCase e e') : e.phase ≠ .idle := by
  cases h with
  | ksInitial hp | blkInitial hp | blkFinal hp | ksRound _ hp _ | blkRound _ hp _ => simp [hp]

section AfterError
variable {e e' : Engine} (herr : e.err = true)
include herr

/-- The first error is kept, and no command is accepted. -/
theorem ExecCase.sameErrorRecord (h : ExecCase e e') : e.SameErrorRecord e' := by
  cases h with
  | same | loadKey _ _ | loadDin _ _ => exact ⟨rfl, rfl⟩
  | error k _ =>
    rw [recordError_of_err e k herr]
    exact ⟨rfl, rfl⟩
  | startKeysched _ hno | startBlock _ _ hno _ => exact absurd herr (by simp [hno])

/-- Only the acceptance of a command writes PHASE. -/
theorem ExecCase.phase_eq (h : ExecCase e e') : e'.phase = e.phase := by
  cases h with
  | same | loadKey _ _ | loadDin _ _ => rfl
  | error k _ => exact recordError_phase e k
  | startKeysched _ hno | startBlock _ _ hno _ => exact absurd herr (by simp [hno])

end AfterError

section StepAfterError
variable {base : Nat} {s t : State} (herr : s.engine.err = true) (hst : stepAt base s = .next t)
include herr hst

theorem sameErrorRecord_of_stepAt (hno : s.action base ≠ .resetEvent) : s.engine.SameErrorRecord t.engine := by
  obtain ⟨-, ⟨i, -, -, hexec⟩ | ⟨-, hstep, -⟩ | ⟨-, -, rfl⟩ | ⟨hreset, -⟩⟩ := stepAt_cases hst
  · exact hexec.sameErrorRecord herr
  · obtain ⟨-, hcase⟩ := engineStep_cases hstep
    exact hcase.sameErrorRecord
  · exact ⟨rfl, rfl⟩
  · exact absurd hreset hno

/-- R126: after an error an idle engine stays idle, whatever comes next. -/
theorem idle_of_stepAt (hidle : s.engine.phase = .idle) : t.engine.phase = .idle := by
  obtain ⟨-, ⟨i, -, -, hexec⟩ | ⟨-, hstep, -⟩ | ⟨-, -, rfl⟩ | ⟨-, rfl⟩⟩ := stepAt_cases hst
  · exact (hexec.phase_eq herr).trans hidle
  · obtain ⟨-, hcase⟩ := engineStep_cases hstep
    exact absurd hidle hcase.phase_ne_idle
  · exact hidle
  · rfl

end StepAfterError

/-- Settles O13: whatever is no RESET keeps the record, and RESET clears it. -/
theorem errorsAreStickyUntilReset : Obligations.ErrorsAreStickyUntilReset := by
  refine fun base s t herr hst => ⟨fun hno => ?_, fun hreset => ?_⟩
  · obtain ⟨hflag, hcode⟩ := sameErrorRecord_of_stepAt herr hst hno
    exact ⟨hflag.trans herr, hcode⟩
  · rw [engine_eq_reset_of_stepAt hreset hst]
    exact ⟨rfl, rfl⟩

/-! ## A running operation completes -/

/-- How many engine steps the operation in progress still takes (R150). -/
def Engine.stepsLeft (e : Engine) : Nat :=
  match e.phase with
  | .idle | .reserved6 | .reserved7 => 0
  | .ksInitial => 17
  | .ksRound => 17 - e.round.toNat
  | .blkInitial => 18
  | .blkRound => 18 - e.round.toNat
  | .blkFinal => 1

theorem stepsLeft_le (e : Engine) : e.stepsLeft ≤ 18 := by
  unfold Engine.stepsLeft
  split <;> omega

theorem legal_iff {e : Engine} : e.legal = true ↔ e.sequencerLegal = true ∧ e.errorLegal = true :=
  Bool.and_eq_true_iff

theorem roundInRange_iff {round : BitVec 5} : roundInRange round = true ↔ 1 ≤ round.toNat ∧ round.toNat ≤ 16 := by
  simp [roundInRange]

/-- The round that ROUND names in the two phases of R34 that have rounds. -/
theorem exists_round_of_legal {e : Engine} (hl : e.legal = true) (hp : e.phase = .ksRound ∨ e.phase = .blkRound) :
    ∃ i : Fin 16, e.round.toNat = i.val + 1 := by
  obtain ⟨hseq, -⟩ := legal_iff.mp hl
  have hrange : roundInRange e.round = true := by
    obtain hp | hp := hp <;> rw [Engine.sequencerLegal, hp] at hseq <;> exact (Bool.and_eq_true_iff.mp hseq).1
  obtain ⟨h1, h16⟩ := roundInRange_iff.mp hrange
  exact ⟨⟨e.round.toNat - 1, by omega⟩, by simp only; omega⟩

/-- In a state of R34, PHASE = KS_ROUND and ROUND name the step of R78. -/
theorem engineStep_of_ksRound {e : Engine} {i : Fin 16} (hl : e.legal = true) (hp : e.phase = .ksRound)
    (hr : e.round.toNat = i.val + 1) : engineStep e = some (stepKsRound i e) := by
  rw [engineStep, if_pos hl, hp]
  dsimp only
  rw [roundIndex_eq_some.mpr hr, Option.map_some]

/-- In a state of R34, PHASE = BLK_FINAL names the step of R103. -/
theorem engineStep_of_blkFinal {e : Engine} (hl : e.legal = true) (hp : e.phase = .blkFinal) :
    engineStep e = some (stepBlkFinal e) := by
  rw [engineStep, if_pos hl, hp]

/-- R151: in a state of R34 that is not IDLE an engine step is enabled. -/
theorem exists_engineStep {e : Engine} (hl : e.legal = true) (hbusy : e.phase ≠ .idle) :
    ∃ e', engineStep e = some e' := by
  cases hp : e.phase with
  | idle => exact absurd hp hbusy
  | ksInitial => exact ⟨_, engineStep_of_ksInitial hl hp⟩
  | ksRound =>
    obtain ⟨i, hr⟩ := exists_round_of_legal hl (.inl hp)
    exact ⟨_, engineStep_of_ksRound hl hp hr⟩
  | blkInitial => exact ⟨_, engineStep_of_blkInitial hl hp⟩
  | blkRound =>
    obtain ⟨i, hr⟩ := exists_round_of_legal hl (.inr hp)
    exact ⟨_, engineStep_of_blkRound hl hp hr⟩
  | blkFinal => exact ⟨_, engineStep_of_blkFinal hl hp⟩
  | reserved6 | reserved7 =>
    obtain ⟨hseq, -⟩ := legal_iff.mp hl
    rw [Engine.sequencerLegal, hp] at hseq
    exact absurd hseq Bool.false_ne_true

/-- R78, round 16: the key schedule is over. -/
theorem stepKsRound_last (e : Engine) {i : Fin 16} (hi : i.val + 1 = 16) :
    (stepKsRound i e).phase = .idle ∧ (stepKsRound i e).round = 0#5 ∧ (stepKsRound i e).kv = true := by
  rw [stepKsRound, if_pos hi]
  exact ⟨rfl, rfl, rfl⟩

/-- R78, rounds 1 to 15: ROUND moved on. -/
theorem stepKsRound_not_last (e : Engine) {i : Fin 16} (hi : i.val + 1 ≠ 16) :
    (stepKsRound i e).phase = e.phase ∧ (stepKsRound i e).round = e.round + 1#5 ∧ (stepKsRound i e).kv = e.kv := by
  rw [stepKsRound, if_neg hi]
  exact ⟨rfl, rfl, rfl⟩

theorem roundInRange_add_one {round : BitVec 5} {i : Fin 16} (hr : round.toNat = i.val + 1) (hi : i.val + 1 ≠ 16) :
    roundInRange (round + 1#5) = true := by
  rw [roundInRange_iff, toNat_round_add_one hr]
  omega

/-- The walk of PHASE, ROUND and KV keeps to R34, and each step of it is one less to take. -/
theorem EngineStepCase.progress {e e' : Engine} (hseq : e.sequencerLegal = true) (h : EngineStepCase e e') :
    e'.sequencerLegal = true ∧ e.stepsLeft = e'.stepsLeft + 1 := by
  cases h with
  | ksInitial hp | blkInitial hp =>
    simp only [Engine.sequencerLegal, hp, Bool.and_eq_true] at hseq
    obtain ⟨-, hkv⟩ := hseq
    exact ⟨hkv, by rw [Engine.stepsLeft, hp]; rfl⟩
  | blkFinal hp => exact ⟨rfl, by rw [Engine.stepsLeft, hp]; rfl⟩
  | ksRound i hp hr =>
    simp only [Engine.sequencerLegal, hp, Bool.and_eq_true] at hseq
    obtain ⟨-, hkv⟩ := hseq
    by_cases hi : i.val + 1 = 16
    · obtain ⟨hp', hr', -⟩ := stepKsRound_last e hi
      simp [Engine.sequencerLegal, Engine.stepsLeft, hp, hr, hi, hp', hr']
    · obtain ⟨hp', hr', hkv'⟩ := stepKsRound_not_last e hi
      constructor
      · simp only [Engine.sequencerLegal, hp', hp, hr', hkv', hkv, roundInRange_add_one hr hi, Bool.and_true]
      · simp only [Engine.stepsLeft, hp', hp, hr', hr, toNat_round_add_one hr]
        omega
  | blkRound i hp hr =>
    simp only [Engine.sequencerLegal, hp, Bool.and_eq_true] at hseq
    obtain ⟨-, hkv⟩ := hseq
    by_cases hi : i.val + 1 = 16
    · have hr16 : e.round = 16#5 := BitVec.eq_of_toNat_eq (hr.trans hi)
      simp [stepBlkRound_last e hi, Engine.sequencerLegal, Engine.stepsLeft, hp, hr16, hkv]
    · rw [stepBlkRound_not_last e hi]
      constructor
      · simp only [Engine.sequencerLegal, hp, hkv, Bool.and_true, roundInRange_add_one hr hi]
      · simp only [Engine.stepsLeft, hp, hr, toNat_round_add_one hr]
        omega

theorem engineStep_progress {e e' : Engine} (h : engineStep e = some e') :
    e'.legal = true ∧ e.stepsLeft = e'.stepsLeft + 1 := by
  obtain ⟨hl, hcase⟩ := engineStep_cases h
  obtain ⟨hseq, herror⟩ := legal_iff.mp hl
  obtain ⟨hseq', hleft⟩ := hcase.progress hseq
  obtain ⟨hflag, hcode⟩ := hcase.sameErrorRecord
  have herror' : e'.errorLegal = true := by rw [Engine.errorLegal, hflag, hcode, ← Engine.errorLegal, herror]
  exact ⟨legal_iff.mpr ⟨hseq', herror'⟩, hleft⟩

/-- R150: from a state of R34 the operation in progress is over after exactly the steps that are left. -/
theorem idle_after_stepsLeft {e : Engine} (hl : e.legal = true) :
    ∃ e', engineSteps e.stepsLeft e = some e' ∧ e'.phase = .idle := by
  induction hn : e.stepsLeft generalizing e with
  | zero =>
    refine ⟨e, rfl, ?_⟩
    by_contra hbusy
    obtain ⟨e', hstep⟩ := exists_engineStep hl hbusy
    obtain ⟨-, hleft⟩ := engineStep_progress hstep
    omega
  | succ n ih =>
    have hbusy : e.phase ≠ .idle := fun hp => by simp [Engine.stepsLeft, hp] at hn
    obtain ⟨e', hstep⟩ := exists_engineStep hl hbusy
    obtain ⟨hl', hleft⟩ := engineStep_progress hstep
    rw [engineSteps, hstep, Option.bind_some]
    exact ih hl' (by omega)

/-! ## Transactions after an error -/

/-- R108, accepted. -/
theorem exec_wrDin_of_idle (v : Word) {s : State} (hbusy : s.engine.busy = false) :
    exec (.wrDin v) s = .next (s.withEngine { s.engine with din := v }) := by
  rw [exec, execWrDin, hbusy, if_neg Bool.false_ne_true]

/-- R108 while an operation is in progress. -/
theorem exec_wrDin_of_busy (v : Word) {s : State} (hbusy : s.engine.busy = true) :
    exec (.wrDin v) s = .next (s.withEngine (s.engine.recordError .busyViolation)) := by
  rw [exec, execWrDin, if_pos hbusy, raiseError_eq]

/-- R126: a command is ignored once an error is recorded. -/
theorem exec_command_of_err {s : State} (herr : s.engine.err = true) {i : Instr}
    (hi : i = .nop ∨ i = .keysched ∨ i = .encrypt ∨ i = .decrypt) : exec i s = .next s := by
  obtain rfl | rfl | rfl | rfl := hi <;> exact issue_of_err _ herr

/-- Settles O14: commands are ignored, the other transactions keep their rules, a running operation completes in the
steps it has left, and an idle engine starts none. -/
theorem commandsAreIgnoredAfterError : Obligations.CommandsAreIgnoredAfterError := by
  refine fun s herr => ⟨fun v => issue_of_err _ herr, fun i => exec_command_of_err herr,
    fun v hbusy => ⟨exec_wrKey_of_idle v hbusy, exec_wrDin_of_idle v hbusy⟩, fun v hbusy => ?busyWrites,
    fun v => ⟨exec_rdStatus v s, exec_readInstr .dout v s, exec_readInstr .din v s⟩,
    fun hl _ => ⟨s.engine.stepsLeft, stepsLeft_le s.engine, idle_after_stepsLeft hl⟩,
    fun base t hidle hst => idle_of_stepAt herr hst hidle⟩
  case busyWrites =>
    rw [exec_wrKey_of_busy v hbusy, exec_wrDin_of_busy v hbusy, withEngine_recordError_of_err _ herr]
    exact ⟨rfl, rfl⟩

/-! ## The checks of R127 -/

/-- What R127 and R129 say of a transaction's answer, given the error its checks name: that error recorded and nothing
else, or a next state with the same error record. -/
def FollowsCheck (s : State) (check : Option ErrorKind) (answer : Result) : Prop :=
  (∀ k, check = some k → answer = .next (s.withEngine (s.engine.recordError k))) ∧
  (check = none → ∃ t, answer = .next t ∧ s.engine.SameErrorRecord t.engine)

section Checks
variable {s : State}

theorem followsCheck_raiseError (k : ErrorKind) : FollowsCheck s (some k) (raiseError k s) :=
  ⟨fun _ hk => Option.some.inj hk ▸ raiseError_eq k s, nofun⟩

theorem followsCheck_next {t : State} (h : s.engine.SameErrorRecord t.engine) : FollowsCheck s none (.next t) :=
  ⟨nofun, fun _ => ⟨t, rfl, h⟩⟩

/-- The model makes its checks in the order of R127's list: a condition decides both at once. -/
theorem followsCheck_ite {c : Prop} [Decidable c] {check check' : Option ErrorKind} {answer answer' : Result}
    (hpos : FollowsCheck s check answer) (hneg : FollowsCheck s check' answer') :
    FollowsCheck s (if c then check else check') (if c then answer else answer') := by
  split
  · exact hpos
  · exact hneg

/-- R127 item 1 (a): ERR is checked before the command's own checks. -/
theorem followsCheck_issue {check : Option ErrorKind} {accept : State → Result} (h : FollowsCheck s check (accept s)) :
    FollowsCheck s (if s.engine.err then none else check) (issue accept s) :=
  followsCheck_ite (followsCheck_next ⟨rfl, rfl⟩) h

end Checks

/-! ### The checks of a command -/

section CommandError
variable (e : Engine)

theorem commandError_zero : commandError e 0#64 = none := rfl

theorem commandError_one : commandError e 1#64 = if e.busy then some .busyViolation else none := rfl

theorem commandError_of_block {v : Word} (hv : v = 2#64 ∨ v = 3#64) : commandError e v =
    if e.busy then some .busyViolation else if e.kv then none else some .noKey := by
  obtain rfl | rfl := hv <;> cases hkv : e.kv <;> simp [commandError, hkv]

theorem commandError_of_reserved {v : Word} (hv : 3 < v.toNat) : commandError e v = some .illegalCommand := if_pos hv

end CommandError

theorem acceptKeysched_followsCheck (s : State) : FollowsCheck s (commandError s.engine 1#64) (acceptKeysched s) := by
  rw [commandError_one, acceptKeysched]
  exact followsCheck_ite (followsCheck_raiseError _) (followsCheck_next ⟨rfl, rfl⟩)

theorem acceptBlock_followsCheck (dir : Bool) {v : Word} (hv : v = 2#64 ∨ v = 3#64) (s : State) :
    FollowsCheck s (commandError s.engine v) (acceptBlock dir s) := by
  rw [commandError_of_block _ hv, acceptBlock]
  exact followsCheck_ite (followsCheck_raiseError _)
    (followsCheck_ite (followsCheck_next ⟨rfl, rfl⟩) (followsCheck_raiseError _))

theorem acceptCmdWrite_followsCheck_of_reserved {v : Word} (hv : 3 < v.toNat) (s : State) :
    FollowsCheck s (commandError s.engine v) (acceptCmdWrite v s) := by
  rw [commandError_of_reserved _ hv, acceptCmdWrite, if_pos (cmdReserved_iff.mpr hv)]
  exact followsCheck_raiseError _

theorem exec_command_followsCheck {v : Word} {i : Instr} (h : decode (.cmd v) = .ok i) (s : State) :
    FollowsCheck s (if s.engine.err then none else commandError s.engine v) (exec i s) := by
  obtain ⟨rfl, rfl⟩ | ⟨rfl, rfl⟩ | ⟨rfl, rfl⟩ | ⟨rfl, rfl⟩ := decode_cmd_eq_ok h
  · exact followsCheck_issue (followsCheck_next ⟨rfl, rfl⟩)
  · exact followsCheck_issue (acceptKeysched_followsCheck s)
  · exact followsCheck_issue (acceptBlock_followsCheck false (.inl rfl) s)
  · exact followsCheck_issue (acceptBlock_followsCheck true (.inr rfl) s)

/-- R56: a value that is not reserved is a command. -/
theorem exists_decode_of_not_reserved {v : Word} (hv : ¬ 3 < v.toNat) : ∃ i, decode (.cmd v) = .ok i := by
  have hcases : v = 0#64 ∨ v = 1#64 ∨ v = 2#64 ∨ v = 3#64 := by bv_omega
  obtain rfl | rfl | rfl | rfl := hcases <;> exact ⟨_, rfl⟩

theorem exec_wrCmd_followsCheck (v : Word) (s : State) :
    FollowsCheck s (if s.engine.err then none else commandError s.engine v) (exec (.wrCmd v) s) := by
  by_cases hv : 3 < v.toNat
  · exact followsCheck_issue (acceptCmdWrite_followsCheck_of_reserved hv s)
  · obtain ⟨i, hi⟩ := exists_decode_of_not_reserved hv
    rw [exec_wrCmd_of_decode hi]
    exact exec_command_followsCheck hi s

/-! ### The checks of an instruction -/

theorem exec_followsCheck (i : Instr) (s : State) : FollowsCheck s (errorOf s.engine i) (exec i s) := by
  cases i with
  | wrKey _ | wrDin _ => exact followsCheck_ite (followsCheck_raiseError _) (followsCheck_next ⟨rfl, rfl⟩)
  | wrDout _ | wrStatus _ | wrR5 _ | wrR6 _ | wrR7 _ => exact followsCheck_raiseError _
  | rdKey _ | rdDin _ | rdDout _ | rdCmd _ | rdStatus _ | rdR5 _ | rdR6 _ | rdR7 _ =>
    exact followsCheck_next ⟨rfl, rfl⟩
  | wrCmd v => exact exec_wrCmd_followsCheck v s
  | nop => exact exec_command_followsCheck (v := 0#64) rfl s
  | keysched => exact exec_command_followsCheck (v := 1#64) rfl s
  | encrypt => exact exec_command_followsCheck (v := 2#64) rfl s
  | decrypt => exact exec_command_followsCheck (v := 3#64) rfl s

/-- Settles O15: check by check, the list of `errorOf` is that of the instruction. -/
theorem checksFollowTheirOrder : Obligations.ChecksFollowTheirOrder := exec_followsCheck

end Sys2Proof.Machine
end

section
/-! PROOFS. The three invariants of the engine: the predicate of R34, the round keys of the current KEY (R25) and the
halves of a block operation in progress (R29). Each is kept by every instruction, every engine step and RESET. -/

namespace Sys2Proof.Machine

/-! ## What every step keeps -/

/-- A property of the engine that instructions and engine steps keep, and the reset state has, is kept by every step. -/
theorem stepAt_keeps {P : Engine → Prop} {base : Nat} {s t : State} (hst : stepAt base s = .next t) (hs : P s.engine)
    (hexec : ExecCase s.engine t.engine → P t.engine) (hstep : EngineStepCase s.engine t.engine → P t.engine)
    (hreset : P Engine.reset) : P t.engine := by
  obtain ⟨-, ⟨i, -, -, hcase⟩ | ⟨-, henginestep, -⟩ | ⟨-, -, rfl⟩ | ⟨-, rfl⟩⟩ := stepAt_cases hst
  · exact hexec hcase
  · exact hstep (engineStep_cases henginestep).2
  · exact hs
  · exact hreset

/-! ## The predicate of R34 -/

/-- An error that the hardware can report has one of the codes 1 to 4 (R122), so its record keeps to R34. -/
theorem legal_recordError {e : Engine} {k : ErrorKind} (hk : k.code.toNat ≤ 4) (hl : e.legal = true) :
    (e.recordError k).legal = true := by
  unfold Engine.recordError
  split
  · exact hl
  · obtain ⟨hseq, -⟩ := legal_iff.mp hl
    exact legal_iff.mpr ⟨hseq, decide_eq_true hk⟩

/-- R34 asks the same of the error record in every state of the sequencer. -/
theorem legal_of_sequencerLegal {e e' : Engine} (hl : e.legal = true) (hseq : e'.sequencerLegal = true)
    (hrecord : e.SameErrorRecord e') : e'.legal = true := by
  obtain ⟨-, herror⟩ := legal_iff.mp hl
  obtain ⟨hflag, hcode⟩ := hrecord
  rw [Engine.errorLegal, ← hflag, ← hcode] at herror
  exact legal_iff.mpr ⟨hseq, herror⟩

/-- In IDLE, R34 asks only for ROUND = 0 of the sequencer. -/
theorem sequencerLegal_of_idle {e : Engine} (hp : e.phase = .idle) : e.sequencerLegal = (e.round == 0#5) := by
  rw [Engine.sequencerLegal, hp]

theorem ExecCase.legal {e e' : Engine} (hl : e.legal = true) (h : ExecCase e e') : e'.legal = true := by
  obtain ⟨hseq, -⟩ := legal_iff.mp hl
  cases h with
  | same => exact hl
  | error k hk => exact legal_recordError hk hl
  | loadKey v hp | loadDin v hp =>
    rw [sequencerLegal_of_idle hp] at hseq
    exact legal_of_sequencerLegal hl ((sequencerLegal_of_idle (by exact hp)).trans hseq) ⟨rfl, rfl⟩
  | startKeysched _ _ => exact legal_of_sequencerLegal hl rfl ⟨rfl, rfl⟩
  | startBlock dir _ _ hkv => exact legal_of_sequencerLegal hl hkv ⟨rfl, rfl⟩

theorem EngineStepCase.legal {e e' : Engine} (hl : e.legal = true) (h : EngineStepCase e e') : e'.legal = true := by
  obtain ⟨hseq, -⟩ := legal_iff.mp hl
  exact legal_of_sequencerLegal hl (h.progress hseq).1 h.sameErrorRecord

theorem legal_reset : Engine.reset.legal = true := by decide

/-- Settles O27: an error record, an accepted transaction and the sequencer's walk each keep to R34. -/
theorem everyStepKeepsLegality : Obligations.EveryStepKeepsLegality := fun _ _ _ hl hst =>
  stepAt_keeps (P := fun e => e.legal = true) hst hl (ExecCase.legal hl) (EngineStepCase.legal hl) legal_reset

/-! ## The round keys of a key -/

/-- Two round-key files are equal where their sixteen entries are. -/
theorem eq_of_getElem_fin_eq {v w : RoundKeySet} (h : ∀ i : Fin 16, v[i] = w[i]) : v = w :=
  Vector.ext fun i hi => h ⟨i, hi⟩

theorem getElem_generateRoundKeys (key : Word) (i : Fin 16) :
    (generateRoundKeys key)[i] = roundKeyOf (keyHalvesAfter key (i.val + 1)) := by
  fin_cases i <;> rfl

/-- R74 step 3: C_i and D_i from those of the round before. -/
theorem keyHalvesAfter_succ (key : Word) (i : Fin 16) :
    keyHalvesAfter key (i.val + 1) = rotateKeyHalves i (keyHalvesAfter key i.val) := by
  rw [keyHalvesAfter, dif_pos i.isLt]

/-- What the rounds 1..n of a key schedule have computed for the current KEY. -/
def Engine.RoundsDone (e : Engine) (n : Nat) : Prop :=
  (e.c, e.d) = keyHalvesAfter e.key n ∧ ∀ i : Fin 16, i.val < n → e.readRK i = (generateRoundKeys e.key)[i]

/-- The second clause of the invariant, by the round that ROUND names. -/
theorem keyScheduleInv_iff {e : Engine} : e.KeyScheduleInv ↔
    (e.kv = true → e.rk = generateRoundKeys e.key) ∧
    (e.phase = .ksRound → ∀ n, e.round.toNat = n + 1 → e.RoundsDone n) := Iff.rfl

/-- R77 computes C0 and D0. -/
theorem roundsDone_stepKsInitial (e : Engine) : (stepKsInitial e).RoundsDone 0 :=
  ⟨rfl, fun _ hi => absurd hi (Nat.not_lt_zero _)⟩

section KsRound
variable (e : Engine) (i : Fin 16)

theorem stepKsRound_key : (stepKsRound i e).key = e.key := by
  rw [stepKsRound]
  split <;> rfl

theorem stepKsRound_halves :
    ((stepKsRound i e).c, (stepKsRound i e).d) = rotateKeyHalves i (e.c, e.d) := by
  rw [stepKsRound]
  split <;> rfl

/-- R78 writes RK[i] from the rotated halves. -/
theorem readRK_stepKsRound_same : (stepKsRound i e).readRK i = roundKeyOf (rotateKeyHalves i (e.c, e.d)) := by
  rw [stepKsRound]
  split <;> exact readRK_writeRK_same ..

/-- R78 keeps every other entry of RK. -/
theorem readRK_stepKsRound_other {j : Fin 16} (h : i ≠ j) : (stepKsRound i e).readRK j = e.readRK j := by
  rw [stepKsRound]
  split <;> exact readRK_writeRK_other _ _ _ _ h

end KsRound

/-- Round i of the engine is round i of R74. -/
theorem roundsDone_stepKsRound {e : Engine} {i : Fin 16} (h : e.RoundsDone i.val) :
    (stepKsRound i e).RoundsDone (i.val + 1) := by
  obtain ⟨hcd, hrk⟩ := h
  have hrot : rotateKeyHalves i (e.c, e.d) = keyHalvesAfter e.key (i.val + 1) := by rw [hcd, keyHalvesAfter_succ]
  rw [Engine.RoundsDone, stepKsRound_key, stepKsRound_halves]
  refine ⟨hrot, fun j hj => ?_⟩
  by_cases hij : i = j
  · subst hij
    rw [readRK_stepKsRound_same, hrot, getElem_generateRoundKeys]
  · have hlt : j.val < i.val := by omega
    rw [readRK_stepKsRound_other e i hij, hrk j hlt]

/-- Sixteen rounds make the whole round-key file. -/
theorem rk_of_roundsDone {e : Engine} (h : e.RoundsDone 16) : e.rk = generateRoundKeys e.key := by
  obtain ⟨-, hrk⟩ := h
  exact eq_of_getElem_fin_eq fun i => hrk i i.isLt

/-- R34: while the rounds of a key schedule run, KV is 0. -/
theorem kv_of_ksRound {e : Engine} (hl : e.legal = true) (hp : e.phase = .ksRound) : e.kv = false := by
  obtain ⟨hseq, -⟩ := legal_iff.mp hl
  simp only [Engine.sequencerLegal, hp, Bool.and_eq_true, Bool.not_eq_true'] at hseq
  exact hseq.2

theorem EngineStepCase.keyScheduleInv {e e' : Engine} (hl : e.legal = true) (hinv : e.KeyScheduleInv)
    (h : EngineStepCase e e') : e'.KeyScheduleInv := by
  obtain ⟨hkeys, hrounds⟩ := keyScheduleInv_iff.mp hinv
  rw [keyScheduleInv_iff]
  cases h with
  | ksInitial hp =>
    refine ⟨hkeys, fun _ n hn => ?_⟩
    obtain rfl : n = 0 := (Nat.succ.inj hn).symm
    exact roundsDone_stepKsInitial e
  | blkInitial hp | blkFinal hp => exact ⟨hkeys, nofun⟩
  | ksRound i hp hr =>
    have hdone : (stepKsRound i e).RoundsDone (i.val + 1) := roundsDone_stepKsRound (hrounds hp i.val hr)
    by_cases hi : i.val + 1 = 16
    · obtain ⟨hp', -, -⟩ := stepKsRound_last e hi
      refine ⟨fun _ => rk_of_roundsDone (hi ▸ hdone), fun hks => ?_⟩
      rw [hp'] at hks
      nomatch hks
    · obtain ⟨-, hr', hkv'⟩ := stepKsRound_not_last e hi
      refine ⟨fun hkv1 => ?_, fun _ n hn => ?_⟩
      · rw [hkv', kv_of_ksRound hl hp] at hkv1
        nomatch hkv1
      · rw [hr', toNat_round_add_one hr] at hn
        obtain rfl : n = i.val + 1 := by omega
        exact hdone
  | blkRound i hp hr =>
    by_cases hi : i.val + 1 = 16
    · rw [stepBlkRound_last e hi]
      exact ⟨hkeys, nofun⟩
    · rw [stepBlkRound_not_last e hi]
      exact ⟨hkeys, fun hks => nomatch hp.symm.trans hks⟩

theorem ExecCase.keyScheduleInv {e e' : Engine} (hinv : e.KeyScheduleInv) (h : ExecCase e e') : e'.KeyScheduleInv := by
  cases h with
  | same => exact hinv
  | error k _ =>
    unfold Engine.recordError
    split <;> exact hinv
  | loadKey v hp => exact ⟨nofun, fun hks => nomatch hp.symm.trans hks⟩
  | loadDin v hp => exact hinv
  | startKeysched _ _ => exact ⟨nofun, nofun⟩
  | startBlock dir _ _ _ =>
    obtain ⟨hkeys, -⟩ := hinv
    exact ⟨hkeys, nofun⟩

theorem keyScheduleInv_reset : Engine.reset.KeyScheduleInv := ⟨nofun, nofun⟩

/-- Settles O28: round i of the engine is round i of R74, the sixteenth completes the file, and what writes KEY or
starts a key schedule clears KV. -/
theorem everyStepKeepsRoundKeysOfKey : Obligations.EveryStepKeepsRoundKeysOfKey := fun _ _ _ hl hinv hst =>
  stepAt_keeps hst hinv (ExecCase.keyScheduleInv hinv) (EngineStepCase.keyScheduleInv hl hinv) keyScheduleInv_reset

/-! ## The halves of a block operation -/

/-- The round keys in the order DIR says (R96). -/
def Engine.subkeyList (e : Engine) : List RoundKey := if e.dir then e.rk.toList.reverse else e.rk.toList

theorem halvesAfter_eq (e : Engine) (n : Nat) :
    e.halvesAfter n = (e.subkeyList.take n).foldl roundHalves (initialHalves e.din) := rfl

theorem length_subkeyList (e : Engine) : e.subkeyList.length = 16 := by
  unfold Engine.subkeyList
  split <;> simp

/-- R96: the subkey of round i stands at place i of that order. -/
theorem getElem_subkeyList (e : Engine) (i : Fin 16) :
    e.subkeyList[i.val]'(by rw [length_subkeyList]; exact i.isLt) = e.subkey i := by
  cases hdir : e.dir <;> simp [Engine.subkeyList, Engine.subkey, Engine.readRK, hdir]

/-- R94: L_i and R_i from those of the round before. -/
theorem halvesAfter_succ (e : Engine) (i : Fin 16) :
    e.halvesAfter (i.val + 1) = roundHalves (e.halvesAfter i.val) (e.subkey i) := by
  have hlen : i.val < e.subkeyList.length := by rw [length_subkeyList]; exact i.isLt
  rw [halvesAfter_eq, List.take_succ_eq_append_getElem hlen, List.foldl_append, getElem_subkeyList, ← halvesAfter_eq,
    List.foldl_cons, List.foldl_nil]

/-- Round i of the engine is round i of R94. -/
theorem roundHalves_eq_halvesAfter {e : Engine} {i : Fin 16} (h : (e.l, e.r) = e.halvesAfter i.val) :
    (e.r, e.l ^^^ feistel e.r (e.subkey i)) = e.halvesAfter (i.val + 1) := by
  rw [halvesAfter_succ, ← h, roundHalves, xorBits]

theorem EngineStepCase.blockInv {e e' : Engine} (hinv : e.BlockInv) (h : EngineStepCase e e') : e'.BlockInv := by
  obtain ⟨hrounds, -⟩ := hinv
  cases h with
  | ksInitial hp | blkFinal hp => exact ⟨nofun, nofun⟩
  | blkInitial hp =>
    refine ⟨fun _ n hn => ?_, nofun⟩
    obtain rfl : n = 0 := (Nat.succ.inj hn).symm
    rfl
  | ksRound i hp hr =>
    have hphase : (stepKsRound i e).phase = .idle ∨ (stepKsRound i e).phase = .ksRound := by
      by_cases hi : i.val + 1 = 16
      · exact .inl (stepKsRound_last e hi).1
      · exact .inr ((stepKsRound_not_last e hi).1.trans hp)
    refine ⟨fun hblk => ?_, fun hblk => ?_⟩ <;> rw [hblk] at hphase <;> simp at hphase
  | blkRound i hp hr =>
    have hlr := roundHalves_eq_halvesAfter (hrounds hp i.val hr)
    by_cases hi : i.val + 1 = 16
    · rw [stepBlkRound_last e hi]
      exact ⟨nofun, fun _ => hlr.trans (congrArg e.halvesAfter hi)⟩
    · rw [stepBlkRound_not_last e hi]
      refine ⟨fun _ n hn => ?_, fun hfinal => nomatch hp.symm.trans hfinal⟩
      obtain rfl : n = i.val + 1 := by
        have hround : (e.round + 1#5).toNat = i.val + 2 := toNat_round_add_one hr
        exact Nat.succ.inj (hn.symm.trans hround)
      exact hlr

theorem ExecCase.blockInv {e e' : Engine} (hinv : e.BlockInv) (h : ExecCase e e') : e'.BlockInv := by
  cases h with
  | same => exact hinv
  | error k _ =>
    unfold Engine.recordError
    split <;> exact hinv
  | loadKey v hp => exact hinv
  | loadDin v hp => exact ⟨fun hblk => (nomatch hp.symm.trans hblk), fun hblk => (nomatch hp.symm.trans hblk)⟩
  | startKeysched _ _ | startBlock _ _ _ _ => exact ⟨nofun, nofun⟩

theorem blockInv_reset : Engine.reset.BlockInv := ⟨nofun, nofun⟩

/-- Settles O29: round i of the engine is round i of R94, and DIN, DIR and RK stay as they are while it runs. -/
theorem everyStepKeepsBlockProgress : Obligations.EveryStepKeepsBlockProgress := fun _ _ _ _ hinv hst =>
  stepAt_keeps hst hinv (ExecCase.blockInv hinv) (EngineStepCase.blockInv hinv) blockInv_reset

/-- Settles O30: after RESET no operation is in progress and KV is 0. -/
theorem resetMeetsEveryInvariant : Obligations.ResetMeetsEveryInvariant :=
  ⟨legal_reset, keyScheduleInv_reset, blockInv_reset⟩

end Sys2Proof.Machine
end

section
/-! PROOFS. The encodings: decode and encode (R52 to R57), the rows of the opcode table (R54, R56), the word that a step
runs, and the assembler's pseudo-instructions (R59, R60). -/

namespace Sys2Proof.Machine

/-! ## Decode and encode -/

/-- R54, digit by digit: the sixteen values of (W, REG) are the sixteen transaction rows. -/
theorem decodeTxn_row (digit : BitVec 4) (data : Word) :
    encode (decodeTxn (encodeTxn digit data)) = .txn (encodeTxn digit data) ∧
      opcodeRow (decodeTxn (encodeTxn digit data)) = txnRow digit := by
  rw [decodeTxn_encodeTxn]
  obtain ⟨n, hn, rfl⟩ : ∃ n < 16, digit = BitVec.ofNat 4 n := ⟨digit.toNat, digit.isLt, by simp⟩
  interval_cases n <;> exact ⟨rfl, rfl⟩

theorem encode_of_decode {w : CodeWord} {i : Instr} (h : decode w = .ok i) : encode i = w := by
  cases w with
  | txn w =>
    obtain rfl : decodeTxn w = i := Except.ok.inj h
    rw [← encodeTxn_fields w]
    exact (decodeTxn_row _ _).1
  | cmd v => obtain ⟨rfl, rfl⟩ | ⟨rfl, rfl⟩ | ⟨rfl, rfl⟩ | ⟨rfl, rfl⟩ := decode_cmd_eq_ok h <;> rfl

theorem decode_encode (i : Instr) : decode (encode i) = .ok i := by
  cases i with
  | nop | keysched | encrypt | decrypt => rfl
  | wrKey data | wrDin data | wrDout data | wrCmd data | wrStatus data | wrR5 data | wrR6 data | wrR7 data
  | rdKey data | rdDin data | rdDout data | rdCmd data | rdStatus data | rdR5 data | rdR6 data | rdR7 data =>
    exact decode_txn_append _ data

/-- Settles O49: instruction by instruction in the one direction, digit by digit and command by command in the other. -/
theorem decodeAndEncodeAgree : Obligations.DecodeAndEncodeAgree := ⟨decode_encode, fun _ _ => encode_of_decode⟩

/-! ## The rows of the opcode table -/

/-- R54, R56: the row of an instruction is one of the sixteen digits or its command's value. -/
theorem opcodeRow_cases (i : Instr) :
    (∃ digit, opcodeRow i = txnRow digit) ∨ (∃ v, opcodeRow i = cmdRow v ∧ decode (.cmd v) = .ok i) := by
  cases i with
  | nop | keysched | encrypt | decrypt => exact .inr ⟨_, rfl, rfl⟩
  | wrKey _ | wrDin _ | wrDout _ | wrCmd _ | wrStatus _ | wrR5 _ | wrR6 _ | wrR7 _
  | rdKey _ | rdDin _ | rdDout _ | rdCmd _ | rdStatus _ | rdR5 _ | rdR6 _ | rdR7 _ => exact .inl ⟨_, rfl⟩

/-- Only the words with that first digit fit a transaction row. -/
theorem eq_of_txnRow_fits {digit : BitVec 4} {w : CodeWord} (h : (txnRow digit).fits w = true) :
    ∃ data, w = .txn (encodeTxn digit data) := by
  cases w with
  | cmd v => nomatch h
  | txn w =>
    have hones : 0xF#4 = BitVec.allOnes 4 := rfl
    have hmask : w &&& encodeTxn (BitVec.allOnes 4) 0#64 = encodeTxn digit 0#64 := by
      simpa only [txnRow, OpcodeRow.fits, beq_iff_eq, hones] using h
    have hdigit : w.extractLsb' 64 4 = digit := by
      apply BitVec.eq_of_getLsbD_eq
      intro i hi
      have hge : ¬ 64 + i < 64 := by omega
      have hbit := congrArg (fun x => BitVec.getLsbD x (64 + i)) hmask
      simp only [BitVec.getLsbD_and, getLsbD_encodeTxn, if_neg hge, Nat.add_sub_cancel_left, BitVec.getLsbD_allOnes, hi,
        decide_true, Bool.and_true] at hbit
      rw [BitVec.getLsbD_extractLsb', decide_eq_true hi, Bool.true_and, hbit]
    exact ⟨txnData w, by rw [← hdigit, encodeTxn_fields]⟩

/-- Only the value itself fits a command row. -/
theorem eq_of_cmdRow_fits {v : Word} {w : CodeWord} (h : (cmdRow v).fits w = true) : w = .cmd v := by
  cases w with
  | txn w => nomatch h
  | cmd x =>
    have hones : 0xFFFFFFFFFFFFFFFF#64 = BitVec.allOnes 64 := rfl
    simpa only [cmdRow, OpcodeRow.fits, hones, BitVec.and_allOnes, beq_iff_eq, CodeWord.cmd.injEq] using h

/-- A word that fits a row decodes to an instruction of that row. -/
theorem decode_of_fits {j : Instr} {w : CodeWord} (h : (opcodeRow j).fits w = true) :
    ∃ i, decode w = .ok i ∧ opcodeRow i = opcodeRow j := by
  obtain ⟨digit, hrow⟩ | ⟨v, hrow, hdecode⟩ := opcodeRow_cases j
  · rw [hrow] at h ⊢
    obtain ⟨data, rfl⟩ := eq_of_txnRow_fits h
    exact ⟨_, rfl, (decodeTxn_row digit data).2⟩
  · rw [hrow] at h
    obtain rfl := eq_of_cmdRow_fits h
    exact ⟨j, hdecode, rfl⟩

theorem opcodeRow_fits_encode (i : Instr) : (opcodeRow i).fits (encode i) = true := by
  cases i with
  | nop | keysched | encrypt | decrypt => rfl
  | wrKey data | wrDin data | wrDout data | wrCmd data | wrStatus data | wrR5 data | wrR6 data | wrR7 data
  | rdKey data | rdDin data | rdDout data | rdCmd data | rdStatus data | rdR5 data | rdR6 data | rdR7 data =>
    exact Laws.txnRow_fits _ data

/-- Settles O50: a word that fits a row decodes to an instruction of it, so it fits no second row, and none if it does
not decode. -/
theorem everyWordFitsOneRow : Obligations.EveryWordFitsOneRow := by
  refine ⟨fun w i hdecode => ⟨?_, fun j hfits => ?_⟩, fun w x herror j => ?_, fun w => ⟨_, rfl⟩⟩
  · rw [← encode_of_decode hdecode]
    exact opcodeRow_fits_encode i
  · obtain ⟨i', hdecode', hrow⟩ := decode_of_fits hfits
    obtain rfl : i = i' := Except.ok.inj (hdecode.symm.trans hdecode')
    exact hrow.symm
  · by_contra hfits
    obtain ⟨i, hok, -⟩ := decode_of_fits (Bool.eq_true_of_not_eq_false hfits)
    nomatch herror.symm.trans hok

/-- Settles O51: each word by evaluation of the decoder. -/
theorem opcodeWordsDecode : Obligations.OpcodeWordsDecode := by
  unfold Obligations.OpcodeWordsDecode
  decide

/-! ## The word that a step runs -/

theorem instrOf_of_decode {w : CodeWord} {i : Instr} (h : decode w = .ok i) : instrOf w = i := by
  rw [instrOf, h]

/-- A command value, reserved or not, runs as the write to CMD that carries it. -/
theorem exec_instrOf_cmd (v : Word) (s : State) : exec (instrOf (.cmd v)) s = exec (.wrCmd v) s := by
  by_cases hv : 3 < v.toNat
  · rw [instrOf_of_reserved hv]
  · obtain ⟨i, hi⟩ := exists_decode_of_not_reserved hv
    rw [instrOf_of_decode hi, exec_wrCmd_of_decode hi]

/-- Settles O53: both words run the write to CMD, in the state with their event taken. -/
theorem commandWordIsItsWriteTransaction : Obligations.CommandWordIsItsWriteTransaction := by
  intro base s v
  rw [stepAt_of_word (w := .cmd v) rfl, stepAt_of_word (w := .txn (0xB#4 ++ v)) rfl, exec_instrOf_cmd, instrOf_wrCmdTxn]
  rfl

section Head
variable {base : Nat} {s : State} {rest : List Event}

theorem popEvent_of_agenda {ev : Event} (h : s.agenda = ev :: rest) : s.popEvent = { s with agenda := rest } := by
  rw [State.popEvent, h, List.tail_cons]

/-- What a step does with the event at the head of the agenda. -/
theorem stepAt_of_agenda {ev : Event} (h : s.agenda = ev :: rest) :
    stepAt base s = perform (interpret base ev) { s with agenda := rest } := by
  rw [stepAt, popEvent_of_agenda h, State.action, State.nextEvent, h, List.headD_cons]

theorem stepAt_of_decoded_word {w : CodeWord} {i : Instr} (h : s.agenda = .word w :: rest) (hi : decode w = .ok i) :
    stepAt base s = exec i { s with agenda := rest } := by
  rw [stepAt_of_agenda h, interpret, instrOf_of_decode hi, perform]

theorem stepAt_of_engineStep (h : s.agenda = .engineStep :: rest) :
    stepAt base s = engineTurn { s with agenda := rest } := by
  rw [stepAt_of_agenda h, interpret, perform]

/-- R152: with nothing announced the step is the engine's turn (log entry 7). -/
theorem stepAt_of_agenda_nil (h : s.agenda = []) : stepAt base s = engineTurn s := by
  have hpop : s.popEvent = s := by rw [State.popEvent, h, List.tail_nil, ← h]
  rw [stepAt, hpop, State.action, State.nextEvent, h, List.headD_nil, interpret, perform]

end Head

theorem engineTurn_of_engineStep {s : State} {e : Engine} (h : engineStep s.engine = some e) :
    engineTurn s = .next (s.withEngine e) := by
  rw [engineTurn, h]

/-- R140: in IDLE there is no engine step. -/
theorem engineStep_of_idle {e : Engine} (hp : e.phase = .idle) : engineStep e = none := by
  rw [engineStep, hp, ite_self]

theorem engineTurn_of_idle {s : State} (hp : s.engine.phase = .idle) : engineTurn s = .next s := by
  rw [engineTurn, engineStep_of_idle hp]
  simp [busy_eq_false.mpr hp]

/-- A word of the table is put at the head of the agenda as the word it is. -/
theorem wordEvent_of_decodeTableWord {nbits w : Nat} {i : Instr} (h : decodeTableWord nbits w = some i) :
    ∃ c, wordEvent nbits w = .word c ∧ decode c = .ok i := by
  rw [decodeTableWord] at h
  cases hc : codeWordOfBits nbits w with
  | none => rw [hc] at h; nomatch h
  | some c =>
    refine ⟨c, by rw [wordEvent, hc], ?_⟩
    rw [hc] at h
    dsimp only at h
    cases hd : decode c with
    | error x => rw [hd] at h; nomatch h
    | ok i' =>
      rw [hd] at h
      exact congrArg Except.ok (Option.some.inj h)

/-- Settles O52: what each event at the head of the agenda asks, and what the engine's turn is. -/
theorem stepRunsTheDecodedInstruction : Obligations.StepRunsTheDecodedInstruction := by
  refine ⟨fun s => rfl, fun base s rest w i => stepAt_of_decoded_word, fun base s rest => stepAt_of_engineStep,
    fun base s rest => stepAt_of_agenda, fun base s => stepAt_of_agenda_nil, fun s e => engineTurn_of_engineStep,
    fun s => engineTurn_of_idle, fun s nbits w i h => ?_⟩
  obtain ⟨c, hev, hdecode⟩ := wordEvent_of_decodeTableWord h
  have hagenda : (s.withFetchWord nbits w).agenda = .word c :: s.agenda := by rw [State.withFetchWord, hev]
  exact stepAt_of_decoded_word hagenda hdecode

/-! ## The assembler -/

/-- R59: case makes no difference to a register name. -/
theorem register_congr {name name' : List Char} (h : name.map Char.toUpper = name'.map Char.toUpper) :
    Asm.register name = Asm.register name' := by
  simp only [Asm.register, h]

/-- R59: a literal of more than 16 digits is refused. -/
theorem immediate_of_long {digits : List Char} (h : 16 < digits.length) :
    Asm.immediate ('0' :: 'x' :: digits) = none := by
  rw [Asm.immediate, if_neg (by omega)]

theorem wf_writeInstr (idx : RegIndex) (data : Word) : (writeInstr idx data).wf = true := by cases idx <;> rfl

theorem wf_readInstr_zero (idx : RegIndex) : (readInstr idx 0#64).wf = true := by cases idx <;> rfl

/-- What the assembler writes is a transaction of the register with the operand (R59). -/
theorem decodeTxn_assembleWrite (reg : BitVec 3) (imm : Word) :
    decodeTxn (Asm.assembleWrite reg imm) = writeInstr (.ofBits reg) imm := by
  obtain ⟨hw, hreg⟩ := digit_fields true reg
  exact (decodeTxn_encodeTxn (BitVec.ofBool true ++ reg) imm).trans (by rw [hw, hreg]; rfl)

theorem decodeTxn_assembleRead (reg : BitVec 3) :
    decodeTxn (Asm.assembleRead reg) = readInstr (.ofBits reg) 0#64 := by
  obtain ⟨hw, hreg⟩ := digit_fields false reg
  exact (decodeTxn_encodeTxn (BitVec.ofBool false ++ reg) 0#64).trans (by rw [hw, hreg]; rfl)

/-- Settles O55: the fixed lines by evaluation, the rest by the lemmas above. -/
theorem pseudoInstructionsExpand : Obligations.PseudoInstructionsExpand := by
  refine ⟨by decide +kernel, by decide +kernel, by decide +kernel, by decide +kernel, by decide +kernel,
    by decide +kernel, by decide +kernel, by decide +kernel, by decide +kernel, by decide +kernel,
    fun name name' => register_congr, fun k => rfl, fun b => rfl, fun b => rfl, fun digits => immediate_of_long,
    fun reg imm => ⟨?_, ?_⟩⟩
  · rw [decodeTxn_assembleWrite, wf_writeInstr]
  · rw [decodeTxn_assembleRead, wf_readInstr_zero]

end Sys2Proof.Machine
end

section
/-! PROOFS. The engine's operations from their first step to their last: the single steps (R78, R103), the walks of a
key schedule and of a block operation (R150), what they compute (R74, R94, R95), what an error does to them (R130), and
the states without an engine step (R34, R151). -/

namespace Sys2Proof.Machine

/-! ## Single steps -/

/-- What a key schedule leaves unchanged: everything but C, D, RK, KV, PHASE and ROUND. -/
def Engine.KsFrame (e e' : Engine) : Prop :=
  e' = { e with c := e'.c, d := e'.d, rk := e'.rk, kv := e'.kv, phase := e'.phase, round := e'.round }

theorem Engine.KsFrame.trans {e₁ e₂ e₃ : Engine} (h : e₁.KsFrame e₂) (h' : e₂.KsFrame e₃) : e₁.KsFrame e₃ :=
  Eq.trans h' (congrArg (fun e : Engine => { e with
    c := e₃.c, d := e₃.d, rk := e₃.rk, kv := e₃.kv, phase := e₃.phase, round := e₃.round }) h)

theorem stepKsInitial_frame (e : Engine) : e.KsFrame (stepKsInitial e) := rfl

theorem stepKsRound_frame (e : Engine) (i : Fin 16) : e.KsFrame (stepKsRound i e) := by
  rw [stepKsRound]
  split <;> rfl

/-- R78's example: the halves after round 1 and their round key (V5.1). -/
theorem stepKsRound_example : rotateKeyHalves 0 (0xF0CCAAF#28, 0x556678F#28) = (0xE19955F#28, 0xAACCF1E#28) ∧
    roundKeyOf (0xE19955F#28, 0xAACCF1E#28) = 0x1B02EFFC7072#48 := by decide +kernel

/-- Settles O20: the step is `stepKsRound`, on the halves, on the round-key file, and at round 16 or before it. -/
theorem ksRoundStepComputesRoundKey : Obligations.KsRoundStepComputesRoundKey := by
  intro e i hl hp hr
  have hstep := engineStep_of_ksRound hl hp hr
  obtain ⟨hc, hd⟩ := Prod.mk.inj (stepKsRound_halves e i)
  have hframe := stepKsRound_frame e i
  refine ⟨⟨_, hstep, hc, hd, readRK_stepKsRound_same e i, fun j hj => readRK_stepKsRound_other e i hj.symm,
    fun hi => stepKsRound_last e hi, fun hi => ?notLast, ?frame⟩, fun hc0 hd0 hround => ?values⟩
  case notLast =>
    obtain ⟨hphase, hround, hkv⟩ := stepKsRound_not_last e hi
    exact ⟨hphase.trans hp, by rw [hround, toNat_round_add_one hr, hr], hkv⟩
  case frame =>
    exact ⟨congrArg (·.key) hframe, congrArg (·.din) hframe, congrArg (·.dout) hframe, congrArg (·.done) hframe,
      congrArg (·.err) hframe, congrArg (·.errcode) hframe, congrArg (·.dir) hframe, congrArg (·.l) hframe,
      congrArg (·.r) hframe⟩
  case values =>
    obtain ⟨hrot, hkey⟩ := stepKsRound_example
    obtain rfl : i = 0 := by
      rw [hround] at hr
      exact Fin.ext (Nat.succ.inj hr).symm
    obtain ⟨-, hround', -⟩ := stepKsRound_not_last e (i := 0) (by decide)
    have hrk := readRK_stepKsRound_same e 0
    rw [hc0, hd0, hrot, hkey] at hrk
    have hhalves := stepKsRound_halves e 0
    rw [hc0, hd0, hrot] at hhalves
    obtain ⟨hc', hd'⟩ := Prod.mk.inj hhalves
    exact ⟨_, hstep, hc', hd', hrk, by rw [hround', hround]; rfl⟩

/-- Settles O23: the step is `stepBlkFinal`; the example is the last row of V7.6. -/
theorem blkFinalStepWritesDout : Obligations.BlkFinalStepWritesDout := by
  intro e hl hp
  have hstep := engineStep_of_blkFinal hl hp
  refine ⟨hstep, fun hL hR => ⟨_, hstep, ?_⟩⟩
  have hvalue : finalBlock (0x43423234#32, 0x0A4CD995#32) = 0x85E813540F0AB405#64 := by decide +kernel
  rw [stepBlkFinal, hL, hR, hvalue]

/-! ## Engine steps in a row -/

theorem engineSteps_succ_last (n : Nat) (e : Engine) : engineSteps (n + 1) e = (engineSteps n e).bind engineStep := by
  induction n generalizing e with
  | zero => exact Option.bind_fun_some (engineStep e)
  | succ n ih =>
    rw [engineSteps, engineSteps, Option.bind_assoc]
    exact congrArg (engineStep e).bind (funext ih)

theorem legal_of_engineSteps {n : Nat} {e e' : Engine} (hl : e.legal = true) (h : engineSteps n e = some e') :
    e'.legal = true := by
  induction n generalizing e with
  | zero => exact Option.some.inj h ▸ hl
  | succ n ih =>
    obtain ⟨e₁, hstep, hrest⟩ := Option.bind_eq_some_iff.mp h
    exact ih (engineStep_progress hstep).1 hrest

theorem toNat_ofNat_round {n : Nat} (h : n ≤ 16) : (BitVec.ofNat 5 n).toNat = n := by
  rw [BitVec.toNat_ofNat]
  omega

/-! ## The key schedule -/

/-- The engine after a key schedule for its KEY (R78). -/
def Engine.afterKeySchedule (e : Engine) : Engine :=
  { e with
    c := (keyHalvesAfter e.key 16).1
    d := (keyHalvesAfter e.key 16).2
    rk := generateRoundKeys e.key
    kv := true
    phase := .idle
    round := 0#5 }

/-- `e'` is a key schedule for the KEY of `e` with n rounds done, before the next. -/
structure Engine.KsRoundsDone (e e' : Engine) (n : Nat) : Prop where
  phase : e'.phase = .ksRound
  round : e'.round.toNat = n + 1
  rounds : e'.RoundsDone n
  frame : e.KsFrame e'

section KeySchedule
variable {e : Engine} (hl : e.legal = true) (hp : e.phase = .ksInitial)
include hl hp

/-- R150, R78: the walk through the rounds of a key schedule. -/
theorem engineSteps_ksRounds {n : Nat} (hn : n < 16) : ∃ e', engineSteps (n + 1) e = some e' ∧ e.KsRoundsDone e' n := by
  induction n with
  | zero =>
    rw [engineSteps, engineStep_of_ksInitial hl hp]
    exact ⟨_, rfl, rfl, rfl, roundsDone_stepKsInitial e, stepKsInitial_frame e⟩
  | succ n ih =>
    obtain ⟨e', hwalk, hphase, hround, hdone, hframe⟩ := ih (by omega)
    let i : Fin 16 := ⟨n, by omega⟩
    have hi : i.val + 1 ≠ 16 := hn.ne
    have hstep := engineStep_of_ksRound (i := i) (legal_of_engineSteps hl hwalk) hphase hround
    obtain ⟨hphase', hround', -⟩ := stepKsRound_not_last e' hi
    refine ⟨stepKsRound i e', ?_, hphase'.trans hphase, ?_, roundsDone_stepKsRound hdone,
      hframe.trans (stepKsRound_frame e' i)⟩
    · rw [engineSteps_succ_last, hwalk, Option.bind_some, hstep]
    · rw [hround', toNat_round_add_one (i := i) hround]

/-- R78: what the seventeen steps add up to. -/
theorem engineSteps_keySchedule : engineSteps 17 e = some e.afterKeySchedule := by
  obtain ⟨e', hwalk, hphase, hround, hdone, hframe⟩ := engineSteps_ksRounds hl hp (n := 15) (by decide)
  have hstep := engineStep_of_ksRound (i := 15) (legal_of_engineSteps hl hwalk) hphase hround
  obtain ⟨hphase', hround', hkv'⟩ := stepKsRound_last e' (i := 15) rfl
  have hdone' : (stepKsRound 15 e').RoundsDone 16 := roundsDone_stepKsRound (i := 15) hdone
  have hframe' : e.KsFrame (stepKsRound 15 e') := hframe.trans (stepKsRound_frame e' 15)
  have hkey : (stepKsRound 15 e').key = e.key := congrArg (·.key) hframe'
  have hrk := rk_of_roundsDone hdone'
  obtain ⟨hhalves, -⟩ := hdone'
  rw [hkey] at hhalves hrk
  have hc : (stepKsRound 15 e').c = (keyHalvesAfter e.key 16).1 := congrArg Prod.fst hhalves
  have hd : (stepKsRound 15 e').d = (keyHalvesAfter e.key 16).2 := congrArg Prod.snd hhalves
  rw [engineSteps_succ_last, hwalk, Option.bind_some, hstep, Engine.afterKeySchedule, ← hc, ← hd, ← hrk,
    ← hphase', ← hround', ← hkv']
  exact congrArg some hframe'

end KeySchedule

/-- Settles O31: sixteen rounds of the walk and the last step. -/
theorem keyScheduleComputesRoundKeys : Obligations.KeyScheduleComputesRoundKeys := fun _ hl hp =>
  engineSteps_keySchedule hl hp

/-! ## The block operation -/

/-- A block operation on the DIN of `e` with n rounds done, before the next. -/
def Engine.afterBlkRounds (e : Engine) (n : Nat) : Engine :=
  { e with
    l := (e.halvesAfter n).1
    r := (e.halvesAfter n).2
    phase := .blkRound
    round := BitVec.ofNat 5 (n + 1) }

/-- The engine after a block operation in a direction (R103). -/
def Engine.afterBlockOperation (e : Engine) (dir : Bool) : Engine :=
  { e with
    l := ({ e with dir := dir } : Engine).halvesAfter 16 |>.1
    r := ({ e with dir := dir } : Engine).halvesAfter 16 |>.2
    dout := blockResult dir e.din e.rk
    done := true
    dir := dir
    phase := .idle
    round := 0#5 }

theorem dout_afterBlockOperation (e : Engine) (dir : Bool) :
    (e.afterBlockOperation dir).dout = blockResult dir e.din e.rk := rfl

section BlkRounds
variable (e : Engine) {i : Fin 16}

theorem stepBlkInitial_eq : stepBlkInitial e = e.afterBlkRounds 0 := rfl

theorem stepBlkRound_afterBlkRounds (hi : i.val + 1 ≠ 16) :
    stepBlkRound i (e.afterBlkRounds i.val) = e.afterBlkRounds (i.val + 1) := by
  have hround : BitVec.ofNat 5 (i.val + 1) + 1#5 = BitVec.ofNat 5 (i.val + 1 + 1) := (BitVec.ofNat_add ..).symm
  rw [stepBlkRound, if_neg hi, Engine.afterBlkRounds, Engine.afterBlkRounds, halvesAfter_succ, ← hround]
  rfl

/-- R102: "ROUND stays 16" after round 16. -/
theorem stepBlkRound_afterBlkRounds_last (hi : i.val + 1 = 16) : stepBlkRound i (e.afterBlkRounds i.val) =
    { e.afterBlkRounds 16 with phase := .blkFinal, round := 16#5 } := by
  have hlast := halvesAfter_succ e i
  rw [hi] at hlast
  rw [stepBlkRound, if_pos hi, Engine.afterBlkRounds, Engine.afterBlkRounds, hlast, hi]
  rfl

/-- R103: the final step on the halves after all rounds makes the cipher result of the direction. -/
theorem finalBlock_halvesAfter_sixteen :
    finalBlock (e.halvesAfter 16) = blockResult e.dir e.din e.rk := by
  rw [blockResult, halvesAfter_eq, List.take_of_length_le (length_subkeyList e).le, Engine.subkeyList, decryptBlock,
    encryptBlock]
  split <;> rfl

end BlkRounds

section BlockOperation
variable {e : Engine} (hl : e.legal = true) (hp : e.phase = .blkInitial)
include hl hp

/-- R150, R102: the walk through the rounds of a block operation. -/
theorem engineSteps_blkRounds {n : Nat} (hn : n < 16) : engineSteps (n + 1) e = some (e.afterBlkRounds n) := by
  induction n with
  | zero =>
    rw [engineSteps, engineStep_of_blkInitial hl hp, stepBlkInitial_eq]
    rfl
  | succ n ih =>
    have hwalk := ih (by omega)
    have hstep := engineStep_of_blkRound (i := ⟨n, by omega⟩) (legal_of_engineSteps hl hwalk) rfl
      (toNat_ofNat_round (by omega))
    rw [engineSteps_succ_last, hwalk, Option.bind_some, hstep, stepBlkRound_afterBlkRounds]
    simp only
    omega

theorem engineSteps_blkFinal :
    engineSteps 17 e = some { e.afterBlkRounds 16 with phase := .blkFinal, round := 16#5 } := by
  have hwalk := engineSteps_blkRounds hl hp (n := 15) (by decide)
  have hstep := engineStep_of_blkRound (i := 15) (legal_of_engineSteps hl hwalk) rfl rfl
  have hlast := stepBlkRound_afterBlkRounds_last e (i := 15) rfl
  rw [engineSteps_succ_last, hwalk, Option.bind_some, hstep]
  exact congrArg some hlast

/-- R103: what the eighteen steps add up to. -/
theorem engineSteps_blockOperation : engineSteps 18 e = some (e.afterBlockOperation e.dir) := by
  have hwalk := engineSteps_blkFinal hl hp
  have hstep := engineStep_of_blkFinal (legal_of_engineSteps hl hwalk) rfl
  rw [engineSteps_succ_last, hwalk, Option.bind_some, hstep, Engine.afterBlockOperation,
    ← finalBlock_halvesAfter_sixteen]
  rfl

theorem kv_of_blkInitial : e.kv = true := by
  obtain ⟨hseq, -⟩ := legal_iff.mp hl
  rw [Engine.sequencerLegal, hp] at hseq
  exact (Bool.and_eq_true_iff.mp hseq).2

end BlockOperation

/-- Settles O32: sixteen rounds of the walk and the final step. -/
theorem blockOperationComputesCipher : Obligations.BlockOperationComputesCipher := fun _ hl hp =>
  engineSteps_blockOperation hl hp

/-- Settles O26: the two walks, round by round. -/
theorem operationsTakeTheirStepCounts : Obligations.OperationsTakeTheirStepCounts := by
  refine ⟨fun e hl hp => ⟨fun n h1 h16 => ?_, _, engineSteps_keySchedule hl hp, rfl⟩, fun e hl hp =>
    ⟨fun n h1 h16 => ?_, ⟨_, engineSteps_blkFinal hl hp, rfl, rfl⟩, _, engineSteps_blockOperation hl hp, rfl⟩⟩
  all_goals obtain ⟨m, rfl⟩ := Nat.exists_eq_add_of_le' h1
  · obtain ⟨e', hwalk, hphase, hround, -, -⟩ := engineSteps_ksRounds hl hp (n := m) (by omega)
    exact ⟨e', hwalk, hphase, hround⟩
  · exact ⟨_, engineSteps_blkRounds hl hp (by omega), rfl, toNat_ofNat_round h16⟩

/-- Settles O37: DOUT is the cipher result of DIN, RK and DIR, and an operation leaves those three as they were. -/
theorem sameBlockGivesSameOutput : Obligations.SameBlockGivesSameOutput := by
  refine ⟨fun e e' t t' hl hl' hp hp' hdin hrk hdir ht ht' => ?_, fun e t t' hl hp ht ht' => ?_⟩
  · obtain rfl := Option.some.inj ((engineSteps_blockOperation hl hp).symm.trans ht)
    obtain rfl := Option.some.inj ((engineSteps_blockOperation hl' hp').symm.trans ht')
    rw [dout_afterBlockOperation, dout_afterBlockOperation, hdin, hrk, hdir]
  · have hlt := legal_of_engineSteps hl ht
    have hkv := kv_of_blkInitial hl hp
    obtain rfl := Option.some.inj ((engineSteps_blockOperation hl hp).symm.trans ht)
    have hlegal : ({ e.afterBlockOperation e.dir with done := false, phase := .blkInitial, round := 0#5 } :
        Engine).legal = true := legal_of_sequencerLegal hlt hkv ⟨rfl, rfl⟩
    have hagain := engineSteps_blockOperation hlegal rfl
    obtain rfl := Option.some.inj (hagain.symm.trans ht')
    exact ⟨rfl, rfl⟩

/-! ## Errors beside an operation -/

section Undisturbed
variable {e : Engine} (k : ErrorKind)

/-- What neither reads nor writes the error record commutes with the record of an error. -/
theorem recordError_comm {f : Engine → Engine} (herr : ∀ x, (f x).err = x.err)
    (hf : ∀ x code, f { x with err := true, errcode := code } = { f x with err := true, errcode := code }) :
    f (e.recordError k) = (f e).recordError k := by
  rw [Engine.recordError, Engine.recordError, herr]
  split
  · rfl
  · exact hf _ _

theorem stepKsInitial_recordError : stepKsInitial (e.recordError k) = (stepKsInitial e).recordError k :=
  recordError_comm k (fun _ => rfl) fun _ _ => rfl

theorem stepBlkInitial_recordError : stepBlkInitial (e.recordError k) = (stepBlkInitial e).recordError k :=
  recordError_comm k (fun _ => rfl) fun _ _ => rfl

theorem stepBlkFinal_recordError : stepBlkFinal (e.recordError k) = (stepBlkFinal e).recordError k :=
  recordError_comm k (fun _ => rfl) fun _ _ => rfl

theorem stepKsRound_recordError (i : Fin 16) : stepKsRound i (e.recordError k) = (stepKsRound i e).recordError k := by
  apply recordError_comm k <;> intros <;> unfold stepKsRound <;> split <;> rfl

theorem stepBlkRound_recordError (i : Fin 16) :
    stepBlkRound i (e.recordError k) = (stepBlkRound i e).recordError k := by
  apply recordError_comm k <;> intros <;> unfold stepBlkRound <;> split <;> rfl

/-- R130: no engine step reads or writes the error record. -/
theorem engineStep_recordError (hl : e.legal = true) (hk : k.code.toNat ≤ 4) :
    engineStep (e.recordError k) = (engineStep e).map fun e' => e'.recordError k := by
  have hl' : (e.recordError k).legal = true := legal_recordError hk hl
  by_cases hidle : e.phase = .idle
  · rw [engineStep_of_idle hidle, engineStep_of_idle ((recordError_phase e k).trans hidle), Option.map_none]
  · obtain ⟨e', hstep⟩ := exists_engineStep hl hidle
    obtain ⟨-, hcase⟩ := engineStep_cases hstep
    rw [hstep, Option.map_some]
    cases hcase with
    | ksInitial hp => rw [engineStep_of_ksInitial hl' ((recordError_phase e k).trans hp), stepKsInitial_recordError]
    | ksRound i hp hr =>
      rw [engineStep_of_ksRound hl' ((recordError_phase e k).trans hp) ((recordError_round e k).symm ▸ hr),
        stepKsRound_recordError]
    | blkInitial hp => rw [engineStep_of_blkInitial hl' ((recordError_phase e k).trans hp), stepBlkInitial_recordError]
    | blkRound i hp hr =>
      rw [engineStep_of_blkRound hl' ((recordError_phase e k).trans hp) ((recordError_round e k).symm ▸ hr),
        stepBlkRound_recordError]
    | blkFinal hp => rw [engineStep_of_blkFinal hl' ((recordError_phase e k).trans hp), stepBlkFinal_recordError]

theorem engineSteps_recordError (hl : e.legal = true) (hk : k.code.toNat ≤ 4) (n : Nat) :
    engineSteps n (e.recordError k) = (engineSteps n e).map fun e' => e'.recordError k := by
  induction n generalizing e with
  | zero => rfl
  | succ n ih =>
    rw [engineSteps, engineSteps, engineStep_recordError k hl hk]
    cases hstep : engineStep e with
    | none => rfl
    | some e' => exact ih (engineStep_progress hstep).1

end Undisturbed

/-- Settles O17: step by step the record of the error passes through. -/
theorem errorsDoNotDisturbEngineSteps : Obligations.ErrorsDoNotDisturbEngineSteps := by
  intro e k hl hk n
  have hcode : k.code.toNat ≤ 4 := by obtain rfl | rfl | rfl | rfl := hk <;> decide
  exact engineSteps_recordError k hl hcode n

/-! ## Stuck states -/

theorem engineStep_of_not_legal {e : Engine} (hl : e.legal = false) : engineStep e = none := by
  rw [engineStep, hl, if_neg Bool.false_ne_true]

/-- R39: what a step refuses is an access that is no transaction. -/
theorem eq_notATransaction_of_reject {base : Nat} {ev : Event} {r : Refusal} (h : interpret base ev = .reject r) :
    r = .notATransaction := by
  cases ev with
  | word w => nomatch h
  | engineStep => nomatch h
  | reset => nomatch h
  | access a =>
    rw [interpret] at h
    split at h
    · nomatch h
    · exact (Action.reject.inj h).symm

/-- R151: in a state of R34 the engine's turn is never stuck. -/
theorem exists_engineTurn {s : State} (hl : s.engine.legal = true) : ∃ t, engineTurn s = .next t := by
  by_cases hidle : s.engine.phase = .idle
  · exact ⟨_, engineTurn_of_idle hidle⟩
  · obtain ⟨e', hstep⟩ := exists_engineStep hl hidle
    exact ⟨_, engineTurn_of_engineStep hstep⟩

/-- Settles O25: the guard of an engine step is R34, and within it every action but a refused access is answered. -/
theorem onlyStatesOutsideLegalityAreStuck : Obligations.OnlyStatesOutsideLegalityAreStuck := by
  refine ⟨fun s hl => ⟨engineStep_of_not_legal hl, fun hbusy => ?_⟩,
    fun e hl hbusy => exists_engineStep hl (busy_eq_true.mp hbusy), fun base s hl => ?_⟩
  · rw [engineTurn, engineStep_of_not_legal hl]
    exact if_pos hbusy
  · rw [stepAt]
    cases ha : s.action base with
    | execute i =>
      obtain ⟨t, ht, -⟩ := exec_spec i s.popEvent
      exact .inl ⟨t, ht⟩
    | engineTurn => exact .inl (exists_engineTurn (s := s.popEvent) hl)
    | resetEvent => exact .inl ⟨_, rfl⟩
    | reject r => exact .inr (congrArg Action.reject (eq_notATransaction_of_reject ha))

end Sys2Proof.Machine
end

section
/-! PROOFS. The cipher as a function: a block function undoes the one with the reversed subkeys (R97), equal subkeys,
parity bits (R70), the complementation property, and the DES positions of permuted values and of bytes (R61, R41). -/

namespace Sys2Proof.Machine

/-- Settles O39: the position law of `permute` and the range of a table's entries. -/
theorem permuteTakesTablePositions : Obligations.PermuteTakesTablePositions := fun _ _ v t _ h1 hm =>
  ⟨desPos_permute v t h1 hm, t.entry_range h1 hm⟩

/-! ## Reversing the subkeys -/

/-- R101 undoes R103 but for the final swap, because IP undoes FP. -/
theorem initialHalves_finalBlock (lr : Half × Half) : initialHalves (finalBlock lr) = lr.swap := by
  have hIP : permute (finalBlock lr) tableIP = lr.2 ++ lr.1 :=
    permute_permute_of_entry_entry tableFP_entry_tableIP_entry _
  refine Prod.ext ?_ ?_ <;> simp only [initialHalves, hIP]
  · exact BitVec.extractLsb'_append_eq_left
  · exact BitVec.extractLsb'_append_eq_right

/-- R103 undoes R101 where the halves are swapped, because FP undoes IP. -/
theorem finalBlock_swap_initialHalves (block : Word) : finalBlock (initialHalves block).swap = block := by
  have hjoin : (permute block tableIP).extractLsb' 32 32 ++ (permute block tableIP).extractLsb' 0 32 =
      permute block tableIP :=
    (BitVec.extractLsb'_append_extractLsb'_eq_extractLsb' rfl).trans BitVec.extractLsb'_eq_self
  rw [finalBlock, initialHalves]
  exact (congrArg (permute · tableFP) hjoin).trans (permute_permute_of_entry_entry tableIP_entry_tableFP_entry block)

/-- A round on swapped halves undoes the round with the same subkey: f is added to the same half twice. -/
theorem roundHalves_swap_roundHalves (lr : Half × Half) (k : RoundKey) :
    roundHalves (roundHalves lr k).swap k = lr.swap :=
  Prod.ext rfl (by simp [roundHalves, xorBits])

/-- The rounds in reverse order on swapped halves undo the rounds. -/
theorem foldl_roundHalves_reverse (lr : Half × Half) (subkeys : List RoundKey) :
    subkeys.reverse.foldl roundHalves (subkeys.foldl roundHalves lr).swap = lr.swap := by
  induction subkeys generalizing lr with
  | nil => rfl
  | cons k ks ih =>
    rw [List.reverse_cons, List.foldl_append, List.foldl_cons (l := ks), ih, List.foldl_cons, List.foldl_nil,
      roundHalves_swap_roundHalves]

theorem runBlock_reverse_runBlock (block : Word) (subkeys : List RoundKey) :
    runBlock (runBlock block subkeys) subkeys.reverse = block := by
  rw [runBlock, runBlock, initialHalves_finalBlock, foldl_roundHalves_reverse, finalBlock_swap_initialHalves]

theorem decryptBlock_encryptBlock (p : Word) (k : RoundKeySet) : decryptBlock (encryptBlock p k) k = p :=
  runBlock_reverse_runBlock p k.toList

theorem encryptBlock_decryptBlock (p : Word) (k : RoundKeySet) : encryptBlock (decryptBlock p k) k = p := by
  have h := runBlock_reverse_runBlock p k.toList.reverse
  rwa [List.reverse_reverse] at h

/-- Settles O33: each block function has the other's subkeys in reverse. -/
theorem decryptInvertsEncrypt : Obligations.DecryptInvertsEncrypt := fun p k =>
  ⟨decryptBlock_encryptBlock p k, encryptBlock_decryptBlock p k⟩

/-! ## Equal subkeys -/

/-- Equal subkeys are the same in reverse order. -/
theorem decryptBlock_eq_encryptBlock {k : RoundKeySet} (hk : ∀ i j : Fin 16, k[i] = k[j]) (block : Word) :
    decryptBlock block k = encryptBlock block k := by
  have hrep : k = Vector.replicate 16 k[0] := by
    apply eq_of_getElem_fin_eq
    intro i
    rw [Fin.getElem_fin (Vector.replicate 16 _), Vector.getElem_replicate]
    exact hk i 0
  rw [decryptBlock, encryptBlock, hrep, Vector.toList_replicate, List.reverse_replicate]

/-- R73: the two halves that no rotation of the schedule changes. -/
theorem rotateKeyHalves_of_constant {c d : KeyHalf} (hc : c = 0#28 ∨ c = 0xFFFFFFF#28)
    (hd : d = 0#28 ∨ d = 0xFFFFFFF#28) (i : Fin 16) : rotateKeyHalves i (c, d) = (c, d) := by
  have hshift : shiftAmount i = 1 ∨ shiftAmount i = 2 := by revert i; decide
  have hrot : ∀ x : KeyHalf, x = 0#28 ∨ x = 0xFFFFFFF#28 → rotl28 x (shiftAmount i) = x := by
    intro x hx
    obtain ⟨-, hzero, hones⟩ := rotationIsCircular x (shiftAmount i) hshift
    obtain rfl | rfl := hx
    · exact hzero
    · exact hones
  exact Prod.ext (hrot _ hc) (hrot _ hd)

/-- A key whose C0 and D0 no rotation changes has equal round keys. -/
theorem generateRoundKeys_of_constant {key : Word} {c d : KeyHalf} (hinit : initialKeyHalves key = (c, d))
    (hc : c = 0#28 ∨ c = 0xFFFFFFF#28) (hd : d = 0#28 ∨ d = 0xFFFFFFF#28) (i : Fin 16) :
    (generateRoundKeys key)[i] = roundKeyOf (c, d) := by
  have hall : ∀ n ≤ 16, keyHalvesAfter key n = (c, d) := by
    intro n hn
    induction n with
    | zero => exact hinit
    | succ n ih => rw [keyHalvesAfter_succ key ⟨n, hn⟩, ih (by omega), rotateKeyHalves_of_constant hc hd]
  rw [getElem_generateRoundKeys, hall _ i.isLt]

/-- The four keys of R74's corner case: each of C0 and D0 is all zeros or all ones. -/
theorem initialKeyHalves_weak :
    initialKeyHalves 0x0101010101010101#64 = (0#28, 0#28) ∧
    initialKeyHalves 0xFEFEFEFEFEFEFEFE#64 = (0xFFFFFFF#28, 0xFFFFFFF#28) ∧
    initialKeyHalves 0xE0E0E0E0F1F1F1F1#64 = (0xFFFFFFF#28, 0#28) ∧
    initialKeyHalves 0x1F1F1F1F0E0E0E0E#64 = (0#28, 0xFFFFFFF#28) := by decide +kernel

/-- Settles O46: equal subkeys read the same in reverse, and the four keys have halves that rotation keeps. -/
theorem equalSubkeysMakeBlockSelfInverse : Obligations.EqualSubkeysMakeBlockSelfInverse := by
  refine ⟨fun k hk block => ?_, fun key hkey i => ?_⟩
  · have heq := decryptBlock_eq_encryptBlock hk
    exact ⟨(heq block).symm, by rw [← heq, decryptBlock_encryptBlock]⟩
  · obtain ⟨h01, hFE, hE0, h1F⟩ := initialKeyHalves_weak
    simp only [List.mem_cons, List.not_mem_nil, or_false] at hkey
    have hconstant : ∃ c d, initialKeyHalves key = (c, d) ∧ (c = 0#28 ∨ c = 0xFFFFFFF#28) ∧
        (d = 0#28 ∨ d = 0xFFFFFFF#28) := by
      obtain rfl | rfl | rfl | rfl := hkey
      · exact ⟨_, _, h01, .inl rfl, .inl rfl⟩
      · exact ⟨_, _, hFE, .inr rfl, .inr rfl⟩
      · exact ⟨_, _, hE0, .inr rfl, .inl rfl⟩
      · exact ⟨_, _, h1F, .inl rfl, .inr rfl⟩
    obtain ⟨c, d, hinit, hc, hd⟩ := hconstant
    rw [generateRoundKeys_of_constant hinit hc hd, generateRoundKeys_of_constant hinit hc hd]

/-! ## Parity bits -/

theorem tablePC1_entry_no_parity : ∀ j : Nat, 1 ≤ j → j ≤ 56 → tablePC1.entry j % 8 ≠ 0 := by decide

/-- R75: the key schedule sees a key only through PC1. -/
theorem generateRoundKeys_congr {k k' : Word} (h : permute k tablePC1 = permute k' tablePC1) :
    generateRoundKeys k = generateRoundKeys k' := by
  have hinit : initialKeyHalves k = initialKeyHalves k' := by rw [initialKeyHalves, initialKeyHalves, h]
  have hall : ∀ n ≤ 16, keyHalvesAfter k n = keyHalvesAfter k' n := by
    intro n hn
    rw [keyHalvesAfter_eq_rotl28 k n hn, keyHalvesAfter_eq_rotl28 k' n hn, hinit]
  apply eq_of_getElem_fin_eq
  intro i
  rw [getElem_generateRoundKeys, getElem_generateRoundKeys, hall _ i.isLt]

/-- Settles O42: PC1 takes no parity position, so both keys have one schedule. -/
theorem parityBitsReachNoRoundKey : Obligations.ParityBitsReachNoRoundKey := by
  intro k k' hagree
  have hPC1 : permute k tablePC1 = permute k' tablePC1 := by
    apply eq_of_desPos_eq
    intro j h1 h56
    obtain ⟨hlow, hhigh⟩ := tablePC1.entry_range h1 h56
    rw [desPos_permute k _ h1 h56, desPos_permute k' _ h1 h56]
    exact hagree _ hlow hhigh (tablePC1_entry_no_parity j h1 h56)
  have hkeys := generateRoundKeys_congr hPC1
  exact ⟨hkeys, fun block => by rw [hkeys]; exact ⟨rfl, rfl⟩⟩

/-! ## Complements -/

theorem desPos_not {n : Nat} (v : BitVec n) {p : Nat} (h1 : 1 ≤ p) (hn : p ≤ n) : desPos (~~~v) p = !desPos v p := by
  have hlt : n - p < n := by omega
  rw [desPos, desPos, BitVec.getLsbD_not, decide_eq_true hlt, Bool.true_and]

/-- A permutation moves bits, so it commutes with the complement. -/
theorem permute_not {n m : Nat} (v : BitVec n) (t : PermTable n m) : permute (~~~v) t = ~~~permute v t := by
  apply eq_of_desPos_eq
  intro j h1 hm
  obtain ⟨hlow, hhigh⟩ := t.entry_range h1 hm
  rw [desPos_permute _ t h1 hm, desPos_not v hlow hhigh, desPos_not _ h1 hm, desPos_permute v t h1 hm]

theorem rotl28_not (x : KeyHalf) {s : Nat} (hs : s ≤ 28) : rotl28 (~~~x) s = ~~~rotl28 x s := by
  apply eq_of_desPos_eq
  intro p h1 h28
  rw [desPos_rotl28 _ hs h1 h28, desPos_not x (by omega) (by omega), desPos_not _ h1 h28, desPos_rotl28 x hs h1 h28]

theorem extractLsb'_not_of_le {n : Nat} (v : BitVec n) {start len : Nat} (h : start + len ≤ n) :
    (~~~v).extractLsb' start len = ~~~v.extractLsb' start len := by
  apply eq_of_desPos_eq
  intro j h1 hlen
  rw [desPos_extractLsb' _ h h1 hlen, desPos_not v (by omega) (by omega), desPos_not _ h1 hlen,
    desPos_extractLsb' v h h1 hlen]

/-- Both halves complemented. -/
def notHalves {n : Nat} (lr : BitVec n × BitVec n) : BitVec n × BitVec n := (~~~lr.1, ~~~lr.2)

theorem initialKeyHalves_not (key : Word) : initialKeyHalves (~~~key) = notHalves (initialKeyHalves key) := by
  simp only [initialKeyHalves, permute_not, notHalves]
  refine Prod.ext ?_ ?_ <;> exact extractLsb'_not_of_le _ (by decide)

theorem keyHalvesAfter_not (key : Word) {n : Nat} (hn : n ≤ 16) :
    keyHalvesAfter (~~~key) n = notHalves (keyHalvesAfter key n) := by
  have hs := shiftSum_le n hn
  rw [keyHalvesAfter_eq_rotl28 _ n hn, keyHalvesAfter_eq_rotl28 _ n hn, initialKeyHalves_not, notHalves,
    rotl28_not _ hs, rotl28_not _ hs]
  rfl

theorem roundKeyOf_not (cd : KeyHalf × KeyHalf) : roundKeyOf (notHalves cd) = ~~~roundKeyOf cd := by
  rw [roundKeyOf, roundKeyOf, notHalves, ← permute_not, BitVec.not_append]

theorem generateRoundKeys_not (key : Word) :
    generateRoundKeys (~~~key) = (generateRoundKeys key).map (~~~ ·) := by
  apply eq_of_getElem_fin_eq
  intro i
  rw [Fin.getElem_fin ((generateRoundKeys key).map _), Vector.getElem_map, ← Fin.getElem_fin, getElem_generateRoundKeys,
    getElem_generateRoundKeys, keyHalvesAfter_not key i.isLt, roundKeyOf_not]

/-- The complements cancel in the exclusive-or that the S-boxes see. -/
theorem feistel_not (r : Half) (k : RoundKey) : feistel (~~~r) (~~~k) = feistel r k := by
  apply feistel_congr
  rw [permute_not, ← BitVec.not_xor_left, ← BitVec.not_xor_right, BitVec.not_not]

theorem roundHalves_not (lr : Half × Half) (k : RoundKey) :
    roundHalves (notHalves lr) (~~~k) = notHalves (roundHalves lr k) := by
  simp only [roundHalves, notHalves, xorBits, feistel_not, BitVec.not_xor_left]

theorem foldl_roundHalves_not (lr : Half × Half) (subkeys : List RoundKey) :
    (subkeys.map (~~~ ·)).foldl roundHalves (notHalves lr) = notHalves (subkeys.foldl roundHalves lr) := by
  induction subkeys generalizing lr with
  | nil => rfl
  | cons k ks ih => rw [List.map_cons, List.foldl_cons, roundHalves_not, ih, List.foldl_cons]

theorem initialHalves_not (block : Word) : initialHalves (~~~block) = notHalves (initialHalves block) := by
  simp only [initialHalves, permute_not, notHalves]
  refine Prod.ext ?_ ?_ <;> exact extractLsb'_not_of_le _ (by decide)

theorem finalBlock_not (lr : Half × Half) : finalBlock (notHalves lr) = ~~~finalBlock lr := by
  rw [finalBlock, finalBlock, notHalves, ← permute_not, BitVec.not_append]

theorem runBlock_not (block : Word) (subkeys : List RoundKey) :
    runBlock (~~~block) (subkeys.map (~~~ ·)) = ~~~runBlock block subkeys := by
  rw [runBlock, initialHalves_not, foldl_roundHalves_not, finalBlock_not, runBlock]

/-- Settles O47: every part of the cipher but the S-boxes passes the complement on, and they see none of it. -/
theorem complementKeyComplementsCipher : Obligations.ComplementKeyComplementsCipher := by
  intro p k
  rw [encryptBlock, generateRoundKeys_not, Vector.toList_map, runBlock_not, encryptBlock]

/-! ## Bytes -/

/-- R41: byte k of the value that eight bytes make is the k-th of them. The bytes after it are passed over one by one,
and the bytes before it are cut off. -/
theorem byteOfWord_wordOfBytes (b : Vector Byte 8) (k : Fin 8) : byteOfWord (wordOfBytes b) k.val = b[k] := by
  rw [byteOfWord, wordOfBytes]
  fin_cases k <;> simp (disch := decide) only [BitVec.extractLsb'_append_eq_of_le]
  · exact BitVec.extractLsb'_eq_self
  all_goals exact BitVec.extractLsb'_append_eq_right

/-- R41: the bits of byte k are DES positions 8k+1 .. 8k+8. -/
theorem desPos_byteOfWord (v : Word) (k : Fin 8) {j : Nat} (h1 : 1 ≤ j) (h8 : j ≤ 8) :
    desPos (byteOfWord v k.val) j = desPos v (8 * k.val + j) := by
  have hskip : 64 - (56 - 8 * k.val + 8) = 8 * k.val := by omega
  rw [byteOfWord, desPos_extractLsb' v (by omega) h1 h8, hskip]

/-- A value is the one its bytes say. -/
theorem eq_of_byteOfWord_eq {v w : Word} (h : ∀ k : Fin 8, byteOfWord v k.val = byteOfWord w k.val) : v = w := by
  apply eq_of_desPos_eq
  intro p h1 h64
  have hpos : 8 * ((p - 1) / 8) + ((p - 1) % 8 + 1) = p := by omega
  let k : Fin 8 := ⟨(p - 1) / 8, by omega⟩
  rw [← hpos, ← desPos_byteOfWord v k (by omega) (by omega), h k, desPos_byteOfWord w k (by omega) (by omega)]

theorem getElem_bytesOfWord (v : Word) (k : Fin 8) : (bytesOfWord v)[k] = byteOfWord v k.val := by
  fin_cases k <;> rfl

theorem wordOfBytes_bytesOfWord (v : Word) : wordOfBytes (bytesOfWord v) = v :=
  eq_of_byteOfWord_eq fun k => (byteOfWord_wordOfBytes _ k).trans (getElem_bytesOfWord v k)

/-- Settles O48: where each byte of a value stands, and a value is its bytes. -/
theorem blocksAreBigEndian : Obligations.BlocksAreBigEndian := by
  refine ⟨fun b k => ⟨byteOfWord_wordOfBytes b k, fun j h1 h8 => ?_⟩, wordOfBytes_bytesOfWord, by decide⟩
  rw [← byteOfWord_wordOfBytes, desPos_byteOfWord _ k h1 h8]

end Sys2Proof.Machine
end

section
/-! PROOFS. What the transactions and the steps write and what they leave unchanged: the accepted commands (R76, R99,
R100, R108), the host's discipline (R143 to R146), the writers of each piece of state (R18 to R31), what the host can
see (R135, R139) and the independence of engines (R138). -/

namespace Sys2Proof.Machine

/-! ## WR DIN and the commands -/

/-- Settles O4: idle and busy. -/
theorem wrDinLoadsInputBlock : Obligations.WrDinLoadsInputBlock := fun v _ =>
  ⟨decode_txn_append 0x9#4 v, exec_wrDin_of_idle v, exec_wrDin_of_busy v⟩

/-- The error that an instruction's checks name is its whole effect (R129). -/
theorem exec_of_errorOf {i : Instr} {s : State} {k : ErrorKind} (h : errorOf s.engine i = some k) :
    exec i s = .next (s.withEngine (s.engine.recordError k)) := by
  obtain ⟨herror, -⟩ := exec_followsCheck i s
  exact herror k h

theorem errorOf_keysched {e : Engine} (herr : e.err = false) :
    errorOf e .keysched = if e.busy then some .busyViolation else none := by
  rw [errorOf, herr, if_neg Bool.false_ne_true, commandError_one]

theorem errorOf_block {e : Engine} (herr : e.err = false) {i : Instr} (hi : i = .encrypt ∨ i = .decrypt) :
    errorOf e i = if e.busy then some .busyViolation else if e.kv then none else some .noKey := by
  obtain rfl | rfl := hi
  · rw [errorOf, herr, if_neg Bool.false_ne_true, commandError_of_block e (.inl rfl)]
  · rw [errorOf, herr, if_neg Bool.false_ne_true, commandError_of_block e (.inr rfl)]

theorem exec_keysched_of_busy {s : State} (herr : s.engine.err = false) (hbusy : s.engine.busy = true) :
    exec .keysched s = .next (s.withEngine (s.engine.recordError .busyViolation)) :=
  exec_of_errorOf (by rw [errorOf_keysched herr, if_pos hbusy])

section BlockCommand
variable {s : State} {i : Instr} (hi : i = .encrypt ∨ i = .decrypt) (herr : s.engine.err = false)
include hi herr

theorem exec_block_of_busy (hbusy : s.engine.busy = true) :
    exec i s = .next (s.withEngine (s.engine.recordError .busyViolation)) :=
  exec_of_errorOf (by rw [errorOf_block herr hi, if_pos hbusy])

theorem exec_block_of_no_key (hbusy : s.engine.busy = false) (hkv : s.engine.kv = false) :
    exec i s = .next (s.withEngine (s.engine.recordError .noKey)) :=
  exec_of_errorOf (by simp [errorOf_block herr hi, hbusy, hkv])

end BlockCommand

/-- Settles O10: idle, busy, ignored; the STATUS of the example by evaluation. -/
theorem keyschedStartsKeySchedule : Obligations.KeyschedStartsKeySchedule := by
  refine ⟨rfl, fun s herr hbusy => exec_keysched_of_idle herr hbusy, fun s herr hbusy => ?_,
    fun s herr => exec_command_of_err herr (.inr (.inl rfl)), _, exec_keysched_of_idle rfl rfl, by decide⟩
  rw [exec_keysched_of_busy herr hbusy, recordError_of_not_err _ _ herr, ErrorKind.code]

/-- Settles O11: accepted, BUSY before KV, ignored. -/
theorem blockCommandsStartBlockOperation : Obligations.BlockCommandsStartBlockOperation := by
  refine ⟨rfl, rfl, fun s herr hbusy hkv => ⟨exec_encrypt_of_idle herr hbusy hkv, exec_decrypt_of_idle herr hbusy hkv⟩,
    fun s i hi herr => ⟨fun hbusy => ?_, fun hbusy hkv => ?_⟩, fun s i hi herr => ?_⟩
  · rw [exec_block_of_busy hi herr hbusy, recordError_of_not_err _ _ herr, ErrorKind.code]
  · rw [exec_block_of_no_key hi herr hbusy hkv, recordError_of_not_err _ _ herr, ErrorKind.code]
  · exact exec_command_of_err herr (.inr (.inr hi))

/-! ## The host's discipline -/

/-- A reserved value breaks the discipline. -/
theorem disciplined_of_reserved (e : Engine) {v : Word} (hv : 3 < v.toNat) : disciplined e (.wrCmd v) = false := by
  have hne : ∀ c : Word, c.toNat ≤ 3 → v ≠ c := fun c hc h => by
    subst h
    omega
  have hblock : ¬ (v = 2#64 ∨ v = 3#64) := not_or.mpr ⟨hne _ (by decide), hne _ (by decide)⟩
  rw [disciplined, if_neg (hne _ (by decide)), if_neg (hne _ (by decide)), if_neg hblock]

section Discipline
variable {e : Engine} (herr : e.err = false)
include herr

/-- A command of R56 keeps the discipline exactly when its checks name no error. -/
theorem disciplined_command {v : Word} {i : Instr} (h : decode (.cmd v) = .ok i) :
    disciplined e i = (errorOf e i).isNone := by
  obtain ⟨rfl, rfl⟩ | ⟨rfl, rfl⟩ | ⟨rfl, rfl⟩ | ⟨rfl, rfl⟩ := decode_cmd_eq_ok h
  · rw [errorOf, herr]
    rfl
  · rw [errorOf_keysched herr, disciplined]
    cases e.busy <;> rfl
  · rw [errorOf_block herr (.inl rfl), disciplined]
    cases e.busy <;> cases e.kv <;> rfl
  · rw [errorOf_block herr (.inr rfl), disciplined]
    cases e.busy <;> cases e.kv <;> rfl

theorem disciplined_wrCmd (v : Word) : disciplined e (.wrCmd v) = (errorOf e (.wrCmd v)).isNone := by
  by_cases hv : 3 < v.toNat
  · rw [disciplined_of_reserved e hv, errorOf, herr, if_neg Bool.false_ne_true, commandError_of_reserved e hv]
    rfl
  · obtain ⟨i, hi⟩ := exists_decode_of_not_reserved hv
    have h := disciplined_command herr hi
    obtain ⟨rfl, rfl⟩ | ⟨rfl, rfl⟩ | ⟨rfl, rfl⟩ | ⟨rfl, rfl⟩ := decode_cmd_eq_ok hi <;> exact h

/-- The discipline is that no check of R127 fails. -/
theorem disciplined_eq_isNone (i : Instr) : disciplined e i = (errorOf e i).isNone := by
  cases i with
  | wrKey _ | wrDin _ =>
    rw [errorOf, disciplined]
    cases e.busy <;> rfl
  | wrDout _ | wrStatus _ | wrR5 _ | wrR6 _ | wrR7 _ => rfl
  | rdKey _ | rdDin _ | rdDout _ | rdCmd _ | rdStatus _ | rdR5 _ | rdR6 _ | rdR7 _ => rfl
  | wrCmd v => exact disciplined_wrCmd herr v
  | nop => exact disciplined_command herr (v := 0#64) rfl
  | keysched => exact disciplined_command herr (v := 1#64) rfl
  | encrypt => exact disciplined_command herr (v := 2#64) rfl
  | decrypt => exact disciplined_command herr (v := 3#64) rfl

end Discipline

theorem err_of_disciplined {i : Instr} {s t : State} (herr : s.engine.err = false)
    (h : disciplined s.engine i = true) (hexec : exec i s = .next t) : t.engine.err = false := by
  rw [disciplined_eq_isNone herr, Option.isNone_iff_eq_none] at h
  obtain ⟨-, hnone⟩ := exec_followsCheck i s
  obtain ⟨t', ht', hflag, -⟩ := hnone h
  cases ht'.symm.trans hexec
  exact hflag.trans herr

theorem err_of_not_disciplined {i : Instr} {s t : State} (herr : s.engine.err = false)
    (h : disciplined s.engine i = false) (hexec : exec i s = .next t) : t.engine.err = true := by
  rw [disciplined_eq_isNone herr] at h
  cases hk : errorOf s.engine i with
  | none => rw [hk] at h; nomatch h
  | some k =>
    cases (exec_of_errorOf hk).symm.trans hexec
    exact recordError_err _ k

/-- Settles O16: the discipline is that no check fails, and neither engine steps nor RESET raise an error. -/
theorem disciplinedHostMakesNoError : Obligations.DisciplinedHostMakesNoError := by
  refine ⟨fun base s t herr hdisc hst => ?_, fun i s t herr h hexec => err_of_not_disciplined herr h hexec⟩
  obtain ⟨-, ⟨i, ha, hexec, -⟩ | ⟨-, hstep, -⟩ | ⟨-, -, rfl⟩ | ⟨-, rfl⟩⟩ := stepAt_cases hst
  · rw [ha] at hdisc
    exact err_of_disciplined (s := s.popEvent) herr hdisc hexec
  · obtain ⟨-, hcase⟩ := engineStep_cases hstep
    exact hcase.sameErrorRecord.1.trans herr
  · exact herr
  · rfl

/-- Settles O18: what an instruction changes besides the error record it changes in IDLE only. -/
theorem hostCannotDisturbRunningOperation : Obligations.HostCannotDisturbRunningOperation := by
  intro i s t hbusy hexec
  have hnot := busy_eq_true.mp hbusy
  obtain ⟨hcase, -⟩ := exec_cases hexec
  generalize t.engine = e' at hcase ⊢
  cases hcase with
  | same => exact .inl rfl
  | error k _ => exact .inr ⟨k, rfl⟩
  | loadKey _ h | loadDin _ h | startKeysched h _ | startBlock _ h _ _ => exact absurd h hnot

/-! ## What an instruction answers -/

/-- The ways an instruction answers, with the instruction that does so. -/
inductive ExecOutcome (s : State) : Instr → State → Prop where
  /-- NOP, or a command that is ignored. -/
  | nothing (i : Instr) : ExecOutcome s i s
  | read (i : Instr) (idx : RegIndex) : ExecOutcome s i (s.observe (hostRead s.engine idx))
  | error (i : Instr) (k : ErrorKind) (hi : observes i = false) :
      ExecOutcome s i (s.withEngine (s.engine.recordError k))
  | loadKey (v : Word) (h : s.engine.phase = .idle) :
      ExecOutcome s (.wrKey v) (s.withEngine { s.engine with key := v, kv := false })
  | loadDin (v : Word) (h : s.engine.phase = .idle) :
      ExecOutcome s (.wrDin v) (s.withEngine { s.engine with din := v })
  | startKeysched (i : Instr) (hi : i = .keysched ∨ i = .wrCmd 1#64) (h : s.engine.phase = .idle) :
      ExecOutcome s i (s.withEngine { s.engine with kv := false, phase := .ksInitial, round := 0#5 })
  | startBlock (i : Instr) (dir : Bool) (hi : observes i = false) (h : s.engine.phase = .idle) :
      ExecOutcome s i (s.withEngine { s.engine with dir := dir, done := false, phase := .blkInitial, round := 0#5 })

section Outcome
variable (s : State)

theorem exec_wrKey_outcome (v : Word) : ∃ t, exec (.wrKey v) s = .next t ∧ ExecOutcome s (.wrKey v) t := by
  cases hbusy : s.engine.busy with
  | true => exact ⟨_, exec_wrKey_of_busy v hbusy, .error _ _ rfl⟩
  | false => exact ⟨_, exec_wrKey_of_idle v hbusy, .loadKey v (busy_eq_false.mp hbusy)⟩

theorem exec_wrDin_outcome (v : Word) : ∃ t, exec (.wrDin v) s = .next t ∧ ExecOutcome s (.wrDin v) t := by
  cases hbusy : s.engine.busy with
  | true => exact ⟨_, exec_wrDin_of_busy v hbusy, .error _ _ rfl⟩
  | false => exact ⟨_, exec_wrDin_of_idle v hbusy, .loadDin v (busy_eq_false.mp hbusy)⟩

/-- KEYSCHED, issued by its own word or by the write to CMD. -/
theorem exec_keysched_outcome {i : Instr} (hi : i = .keysched ∨ i = .wrCmd 1#64) :
    ∃ t, exec .keysched s = .next t ∧ ExecOutcome s i t := by
  have hobs : observes i = false := by obtain rfl | rfl := hi <;> rfl
  cases herr : s.engine.err with
  | true => exact ⟨s, exec_command_of_err herr (.inr (.inl rfl)), .nothing i⟩
  | false =>
    cases hbusy : s.engine.busy with
    | true => exact ⟨_, exec_keysched_of_busy herr hbusy, .error i _ hobs⟩
    | false => exact ⟨_, exec_keysched_of_idle herr hbusy, .startKeysched i hi (busy_eq_false.mp hbusy)⟩

/-- ENCRYPT or DECRYPT, issued by its own word or by the write to CMD. -/
theorem exec_block_outcome {b i : Instr} (hb : b = .encrypt ∨ b = .decrypt) (hobs : observes i = false) :
    ∃ t, exec b s = .next t ∧ ExecOutcome s i t := by
  cases herr : s.engine.err with
  | true => exact ⟨s, exec_command_of_err herr (.inr (.inr hb)), .nothing i⟩
  | false =>
    cases hbusy : s.engine.busy with
    | true => exact ⟨_, exec_block_of_busy hb herr hbusy, .error i _ hobs⟩
    | false =>
      cases hkv : s.engine.kv with
      | false => exact ⟨_, exec_block_of_no_key hb herr hbusy hkv, .error i _ hobs⟩
      | true =>
        obtain rfl | rfl := hb
        · exact ⟨_, exec_encrypt_of_idle herr hbusy hkv, .startBlock i false hobs (busy_eq_false.mp hbusy)⟩
        · exact ⟨_, exec_decrypt_of_idle herr hbusy hkv, .startBlock i true hobs (busy_eq_false.mp hbusy)⟩

theorem exec_wrCmd_outcome (v : Word) : ∃ t, exec (.wrCmd v) s = .next t ∧ ExecOutcome s (.wrCmd v) t := by
  by_cases hv : 3 < v.toNat
  · have hobs : observes (.wrCmd v) = false := by
      have hne : v ≠ 0#64 := fun h => by simp [h] at hv
      simpa [observes] using hne
    exact ⟨_, exec_wrCmd_of_reserved hv s, .error _ _ hobs⟩
  · obtain ⟨i, hi⟩ := exists_decode_of_not_reserved hv
    rw [exec_wrCmd_of_decode hi]
    obtain ⟨rfl, rfl⟩ | ⟨rfl, rfl⟩ | ⟨rfl, rfl⟩ | ⟨rfl, rfl⟩ := decode_cmd_eq_ok hi
    · exact ⟨s, exec_nop s, .nothing _⟩
    · exact exec_keysched_outcome s (.inr rfl)
    · exact exec_block_outcome s (.inl rfl) rfl
    · exact exec_block_outcome s (.inr rfl) rfl

theorem exec_outcome (i : Instr) : ∃ t, exec i s = .next t ∧ ExecOutcome s i t := by
  cases i with
  | wrKey v => exact exec_wrKey_outcome s v
  | wrDin v => exact exec_wrDin_outcome s v
  | wrCmd v => exact exec_wrCmd_outcome s v
  | wrDout _ | wrStatus _ | wrR5 _ | wrR6 _ | wrR7 _ => exact ⟨_, raiseError_eq .illegalAccess s, .error _ _ rfl⟩
  | rdKey _ | rdDin _ | rdDout _ | rdCmd _ | rdStatus _ | rdR5 _ | rdR6 _ | rdR7 _ =>
    exact ⟨_, answerRead_eq _ s, .read _ _⟩
  | nop => exact ⟨s, exec_nop s, .nothing _⟩
  | keysched => exact exec_keysched_outcome s (.inl rfl)
  | encrypt => exact exec_block_outcome s (.inl rfl) rfl
  | decrypt => exact exec_block_outcome s (.inr rfl) rfl

end Outcome

theorem outcome_of_exec {i : Instr} {s t : State} (h : exec i s = .next t) : ExecOutcome s i t := by
  obtain ⟨t', ht', hout⟩ := exec_outcome s i
  cases ht'.symm.trans h
  exact hout

/-- Settles O58: the frame of each way an instruction answers. -/
theorem everyInstructionCompletes : Obligations.EveryInstructionCompletes := by
  intro i s
  obtain ⟨t, hexec, hout⟩ := exec_outcome s i
  refine ⟨t, hexec, ?_⟩
  cases hout with
  | nothing => exact ⟨rfl, rfl, rfl, rfl, rfl, rfl, rfl, .inl rfl, fun _ => rfl⟩
  | read _ idx => exact ⟨rfl, rfl, rfl, rfl, rfl, rfl, rfl, .inr ⟨idx, rfl⟩, fun _ => rfl⟩
  | error _ k hi =>
    exact ⟨rfl, recordError_dout .., recordError_l .., recordError_r .., recordError_c .., recordError_d ..,
      recordError_rk .., .inl rfl, fun hobs => absurd hobs (by simp [hi])⟩
  | loadKey | loadDin => exact ⟨rfl, rfl, rfl, rfl, rfl, rfl, rfl, .inl rfl, nofun⟩
  | startKeysched _ hi _ =>
    have hno : observes i ≠ true := by obtain rfl | rfl := hi <;> decide
    exact ⟨rfl, rfl, rfl, rfl, rfl, rfl, rfl, .inl rfl, fun hobs => absurd hobs hno⟩
  | startBlock _ _ hi _ =>
    exact ⟨rfl, rfl, rfl, rfl, rfl, rfl, rfl, .inl rfl, fun hobs => absurd hobs (by simp [hi])⟩

/-! ## Who writes what -/

/-- R18, R19, R25: an engine step writes of KEY, DIN and KV at most KV, and that in the last KS_ROUND step. -/
theorem EngineStepCase.operands {e e' : Engine} (h : EngineStepCase e e') : e'.key = e.key ∧ e'.din = e.din ∧
    (e'.kv = e.kv ∨ e'.kv = true ∧ e.phase = .ksRound ∧ e.round = 16#5) := by
  cases h with
  | ksInitial _ | blkInitial _ | blkFinal _ => exact ⟨rfl, rfl, .inl rfl⟩
  | ksRound i hp hr =>
    have hframe := stepKsRound_frame e i
    refine ⟨congrArg (·.key) hframe, congrArg (·.din) hframe, ?_⟩
    by_cases hi : i.val + 1 = 16
    · obtain ⟨-, -, hkv⟩ := stepKsRound_last e hi
      exact .inr ⟨hkv, hp, BitVec.eq_of_toNat_eq (hr.trans hi)⟩
    · obtain ⟨-, -, hkv⟩ := stepKsRound_not_last e hi
      exact .inl hkv
  | blkRound i _ _ =>
    unfold stepBlkRound
    split <;> exact ⟨rfl, rfl, .inl rfl⟩

/-- Settles O56: the writers of KEY, DIN and KV among the instructions and the engine steps. -/
theorem onlyAcceptedWritesChangeOperands : Obligations.OnlyAcceptedWritesChangeOperands := by
  intro base s t hst hno
  obtain ⟨-, ⟨i, ha, hexec, -⟩ | ⟨ha, hstep, -⟩ | ⟨-, -, rfl⟩ | ⟨hreset, -⟩⟩ := stepAt_cases hst
  case inr.inl =>
    obtain ⟨-, hcase⟩ := engineStep_cases hstep
    obtain ⟨hkey, hdin, hkv⟩ := hcase.operands
    refine ⟨fun h => absurd hkey h, fun h => absurd hdin h, fun h => ?_⟩
    obtain hsame | ⟨hset, hp, hr⟩ := hkv
    · exact absurd hsame h
    · exact .inr ⟨hset, ha, hp, hr⟩
  case inr.inr.inl => exact ⟨fun h => absurd rfl h, fun h => absurd rfl h, fun h => absurd rfl h⟩
  case inr.inr.inr => exact absurd hreset hno
  case inl =>
    cases outcome_of_exec hexec with
    | nothing | read => exact ⟨fun h => absurd rfl h, fun h => absurd rfl h, fun h => absurd rfl h⟩
    | error _ k _ =>
      exact ⟨fun h => absurd (recordError_key s.engine k) h, fun h => absurd (recordError_din s.engine k) h,
        fun h => absurd (recordError_kv s.engine k) h⟩
    | loadKey v hidle => exact ⟨fun _ => ⟨hidle, ha⟩, fun h => absurd rfl h, fun _ => .inl ⟨rfl, hidle, .inl ⟨v, ha⟩⟩⟩
    | loadDin v hidle => exact ⟨fun h => absurd rfl h, fun _ => ⟨hidle, ha⟩, fun h => absurd rfl h⟩
    | startKeysched _ hi hidle =>
      refine ⟨fun h => absurd rfl h, fun h => absurd rfl h, fun _ => .inl ⟨rfl, hidle, .inr ?_⟩⟩
      obtain rfl | rfl := hi
      · exact .inl ha
      · exact .inr ha
    | startBlock => exact ⟨fun h => absurd rfl h, fun h => absurd rfl h, fun h => absurd rfl h⟩

/-- Which pieces of the result state an engine step writes (R20, R24, R27, R29, R30, R31). -/
structure Engine.ResultsWritten (e e' : Engine) : Prop where
  dout : e'.dout = e.dout ∨ e.phase = .blkFinal
  done : e'.done = e.done ∨ e'.done = true ∧ e.phase = .blkFinal
  dir : e'.dir = e.dir
  halves : (e'.l = e.l ∧ e'.r = e.r) ∨ e.phase = .blkInitial ∨ e.phase = .blkRound
  keyHalves : (e'.c = e.c ∧ e'.d = e.d) ∨ e.phase = .ksInitial ∨ e.phase = .ksRound
  rk : ∀ i : Fin 16, e'.readRK i = e.readRK i ∨ e.phase = .ksRound ∧ e.round.toNat = i.val + 1

theorem EngineStepCase.results {e e' : Engine} (h : EngineStepCase e e') : e.ResultsWritten e' := by
  cases h with
  | ksInitial hp => exact ⟨.inl rfl, .inl rfl, rfl, .inl ⟨rfl, rfl⟩, .inr (.inl hp), fun _ => .inl rfl⟩
  | blkInitial hp => exact ⟨.inl rfl, .inl rfl, rfl, .inr (.inl hp), .inl ⟨rfl, rfl⟩, fun _ => .inl rfl⟩
  | blkFinal hp => exact ⟨.inr hp, .inr ⟨rfl, hp⟩, rfl, .inl ⟨rfl, rfl⟩, .inl ⟨rfl, rfl⟩, fun _ => .inl rfl⟩
  | blkRound i hp _ =>
    unfold stepBlkRound
    split <;> exact ⟨.inl rfl, .inl rfl, rfl, .inr (.inr hp), .inl ⟨rfl, rfl⟩, fun _ => .inl rfl⟩
  | ksRound i hp hr =>
    have hframe := stepKsRound_frame e i
    refine ⟨.inl (congrArg (·.dout) hframe), .inl (congrArg (·.done) hframe), congrArg (·.dir) hframe,
      .inl ⟨congrArg (·.l) hframe, congrArg (·.r) hframe⟩, .inr (.inr hp), fun j => ?_⟩
    by_cases hij : i = j
    · exact .inr ⟨hp, hij ▸ hr⟩
    · exact .inl (readRK_stepKsRound_other e i hij)

/-- What an instruction writes of the result state: DONE and DIR, when a block operation is accepted. -/
theorem ExecCase.results {e e' : Engine} (h : ExecCase e e') :
    e'.dout = e.dout ∧ e'.l = e.l ∧ e'.r = e.r ∧ e'.c = e.c ∧ e'.d = e.d ∧ e'.rk = e.rk ∧
    ((e'.done = e.done ∧ e'.dir = e.dir) ∨ (e'.done = false ∧ e'.phase = .blkInitial ∧ e.phase = .idle)) := by
  cases h with
  | same | loadKey _ _ | loadDin _ _ | startKeysched _ _ =>
    exact ⟨rfl, rfl, rfl, rfl, rfl, rfl, .inl ⟨rfl, rfl⟩⟩
  | error k _ =>
    exact ⟨recordError_dout .., recordError_l .., recordError_r .., recordError_c .., recordError_d ..,
      recordError_rk .., .inl ⟨recordError_done .., recordError_dir ..⟩⟩
  | startBlock dir hidle _ _ => exact ⟨rfl, rfl, rfl, rfl, rfl, rfl, .inr ⟨rfl, rfl, hidle⟩⟩

/-- Settles O57: the writers of the result state among the instructions and the engine steps. -/
theorem onlyEngineStepsChangeResults : Obligations.OnlyEngineStepsChangeResults := by
  intro base s t hst hno
  obtain ⟨-, ⟨i, ha, -, hcase⟩ | ⟨ha, hstep, -⟩ | ⟨-, -, rfl⟩ | ⟨hreset, -⟩⟩ := stepAt_cases hst
  case inr.inr.inr => exact absurd hreset hno
  case inr.inr.inl =>
    exact ⟨fun h => absurd rfl h, fun h => absurd rfl h, fun h => absurd rfl h,
      fun h => absurd ⟨rfl, rfl⟩ (not_and_or.mpr h), fun h => absurd ⟨rfl, rfl⟩ (not_and_or.mpr h),
      fun i h => absurd rfl h⟩
  case inl =>
    obtain ⟨hdout, hl, hr, hc, hd, hrk, hflags⟩ := hcase.results
    refine ⟨fun h => absurd hdout h, fun h => .inr ?_, fun h => ?_, fun h => absurd ⟨hl, hr⟩ (not_and_or.mpr h),
      fun h => absurd ⟨hc, hd⟩ (not_and_or.mpr h), fun i h => absurd (by rw [Engine.readRK, hrk, Engine.readRK]) h⟩
    · obtain ⟨hdone, -⟩ | hstart := hflags
      · exact absurd hdone h
      · exact hstart
    · obtain ⟨-, hdir⟩ | ⟨-, hstart⟩ := hflags
      · exact absurd hdir h
      · exact hstart
  case inr.inl =>
    obtain ⟨-, hstepCase⟩ := engineStep_cases hstep
    obtain ⟨hdout, hdone, hdir, hlr, hcd, hrk⟩ := hstepCase.results
    exact ⟨fun h => ⟨ha, hdout.resolve_left h⟩,
      fun h => .inl ⟨(hdone.resolve_left h).1, ha, (hdone.resolve_left h).2⟩, fun h => absurd hdir h,
      fun h => ⟨ha, hlr.resolve_left (not_and_or.mpr h)⟩, fun h => ⟨ha, hcd.resolve_left (not_and_or.mpr h)⟩,
      fun i h => ⟨ha, (hrk i).resolve_left h⟩⟩

/-! ## What the host can see -/

/-- The engine with what the host cannot see (R135, R139) at its reset value. -/
def Engine.visible (e : Engine) : Engine :=
  { e with key := 0#64, l := 0#32, r := 0#32, c := 0#28, d := 0#28, rk := Engine.reset.rk }

/-- What the host can see of a state: the engine as far as it is visible, and what was read. -/
def State.visible (s : State) : State := { engine := s.engine.visible, agenda := [], reads := s.reads }

/-- STATUS shows PHASE by its code, which no two phases share. -/
theorem Phase.code_injective {p q : Phase} (h : p.code = q.code) : p = q := by
  revert h
  cases p <;> cases q <;> decide

/-- DIN, DOUT and STATUS tell everything of the engine but what the host cannot see. -/
theorem visible_of_hostView {e e' : Engine} (h : e.hostView = e'.hostView) : e.visible = e'.visible := by
  simp only [Engine.hostView, Prod.mk.injEq] at h
  obtain ⟨hdin, hdout, hstatus⟩ := h
  have hdone : e.done = e'.done := by rw [← getLsbD_status_done, hstatus, getLsbD_status_done]
  have hkv : e.kv = e'.kv := by rw [← getLsbD_status_kv, hstatus, getLsbD_status_kv]
  have herr : e.err = e'.err := by rw [← getLsbD_status_err, hstatus, getLsbD_status_err]
  have hcode : e.errcode = e'.errcode := by
    rw [← extractLsb'_status_errcode, hstatus, extractLsb'_status_errcode]
  have hdir : e.dir = e'.dir := by rw [← getLsbD_status_dir, hstatus, getLsbD_status_dir]
  have hphase : e.phase = e'.phase := by
    apply Phase.code_injective
    rw [← extractLsb'_status_phase, hstatus, extractLsb'_status_phase]
  have hround : e.round = e'.round := by rw [← extractLsb'_status_round, hstatus, extractLsb'_status_round]
  simp only [Engine.visible, hdin, hdout, hdone, hkv, herr, hcode, hdir, hphase, hround]

theorem hostView_visible (e : Engine) : e.visible.hostView = e.hostView := rfl

/-- What the host can see of an answer. -/
def visibleAnswer : Result → Result
  | .next s => .next s.visible
  | .fault r => .fault r
  | .refused r => .refused r

/-- Two answers that look the same to the host. -/
def LookAlike (a a' : Result) : Prop := visibleAnswer a = visibleAnswer a'

section LookAlike
variable (s : State)

theorem lookAlike_ite {c : Prop} [Decidable c] {a a' b b' : Result} (ha : LookAlike a a') (hb : LookAlike b b') :
    LookAlike (if c then a else b) (if c then a' else b') := by
  split
  · exact ha
  · exact hb

theorem raiseError_lookAlike (k : ErrorKind) : LookAlike (raiseError k s.visible) (raiseError k s) := by
  have hengine : (s.engine.visible.recordError k).visible = (s.engine.recordError k).visible := by
    cases herr : s.engine.err <;> simp [Engine.recordError, Engine.visible, herr]
  exact congrArg (fun e => (.next { engine := e, agenda := [], reads := s.reads } : Result)) hengine

theorem acceptKeysched_lookAlike : LookAlike (acceptKeysched s.visible) (acceptKeysched s) :=
  lookAlike_ite (c := s.engine.busy = true) (raiseError_lookAlike s _) rfl

theorem acceptBlock_lookAlike (dir : Bool) : LookAlike (acceptBlock dir s.visible) (acceptBlock dir s) :=
  lookAlike_ite (c := s.engine.busy = true) (raiseError_lookAlike s _)
    (lookAlike_ite (c := s.engine.kv = true) rfl (raiseError_lookAlike s _))

theorem acceptCmdWrite_lookAlike (v : Word) : LookAlike (acceptCmdWrite v s.visible) (acceptCmdWrite v s) :=
  lookAlike_ite (raiseError_lookAlike s _) (lookAlike_ite rfl (lookAlike_ite (acceptKeysched_lookAlike s)
    (lookAlike_ite (acceptBlock_lookAlike s false) (acceptBlock_lookAlike s true))))

theorem issue_lookAlike {accept : State → Result} (h : LookAlike (accept s.visible) (accept s)) :
    LookAlike (issue accept s.visible) (issue accept s) :=
  lookAlike_ite (c := s.engine.err = true) rfl h

/-- R135, R139: no instruction reads what the host cannot see into what it can. -/
theorem exec_lookAlike (i : Instr) : LookAlike (exec i s.visible) (exec i s) := by
  cases i with
  | wrKey _ | wrDin _ => exact lookAlike_ite (c := s.engine.busy = true) (raiseError_lookAlike s _) rfl
  | wrDout _ | wrStatus _ | wrR5 _ | wrR6 _ | wrR7 _ => exact raiseError_lookAlike s _
  | rdKey _ | rdDin _ | rdDout _ | rdCmd _ | rdStatus _ | rdR5 _ | rdR6 _ | rdR7 _ => rfl
  | wrCmd v => exact issue_lookAlike s (acceptCmdWrite_lookAlike s v)
  | nop => exact issue_lookAlike s rfl
  | keysched => exact issue_lookAlike s (acceptKeysched_lookAlike s)
  | encrypt => exact issue_lookAlike s (acceptBlock_lookAlike s false)
  | decrypt => exact issue_lookAlike s (acceptBlock_lookAlike s true)

end LookAlike

/-- Settles O59: two answers to states that look alike both look like the answer to what the host can see of them. -/
theorem keyMaterialIsNotObservable : Obligations.KeyMaterialIsNotObservable := by
  intro i s s' t t' hview hreads ht ht'
  have hsame : s.visible = s'.visible := by rw [State.visible, State.visible, visible_of_hostView hview, hreads]
  have hanswers : visibleAnswer (exec i s) = visibleAnswer (exec i s') :=
    calc visibleAnswer (exec i s)
        _ = visibleAnswer (exec i s.visible) := (exec_lookAlike s i).symm
        _ = visibleAnswer (exec i s'.visible) := by rw [hsame]
        _ = visibleAnswer (exec i s') := exec_lookAlike s' i
  rw [ht, ht'] at hanswers
  have hvisible : t.visible = t'.visible := Host.Outcome.next.inj hanswers
  have hreads' := congrArg State.reads hvisible
  refine ⟨hreads', ?_⟩
  rw [← hostView_visible t.engine, ← hostView_visible t'.engine]
  exact congrArg (fun u => u.engine.hostView) hvisible

/-! ## Independent engines -/

/-- Settles O60: a step replaces one entry of the list of engines. -/
theorem instancesShareNothing : Obligations.InstancesShareNothing := by
  intro k p q hstep
  rw [Platform.step] at hstep
  split at hstep
  · nomatch hstep
  · rename_i s hs
    split at hstep
    · rename_i t ht
      cases hstep
      obtain ⟨hlt, -⟩ := List.getElem?_eq_some_iff.mp hs
      exact ⟨List.length_set, fun j hj => List.getElem?_set_ne hj.symm, s, t, hs, ht, List.getElem?_set_self hlt⟩
    · nomatch hstep
    · nomatch hstep

end Sys2Proof.Machine
end

section
/-! PROOFS. Whole runs of the machine: the host's sequence of a key schedule and a block operation (R119), the round
trip in the hardware (R97) and polling (R44 to R46, R152). -/

namespace Sys2Proof.Machine

/-! ## One event of a run -/

theorem run_succ_of_step {M : Host.Core} {n : Nat} {s t : M.State} (h : M.step s = .next t) :
    M.run (n + 1) s = M.run n t := by
  rw [Host.Core.run, h]

theorem run_of_stepAt {n : Nat} {s t : State} (h : stepAt (Config.desBase 0) s = .next t) :
    core.run (n + 1) s = core.run n t :=
  run_succ_of_step (M := core) h

section Events
variable {n : Nat} {e : Engine} {rest : List Event} {reads : List Word}

/-- A word runs the instruction it decodes to. -/
theorem run_word {w : CodeWord} {i : Instr} {t : State} (hi : decode w = .ok i)
    (hexec : exec i ⟨e, rest, reads⟩ = .next t) : core.run (n + 1) ⟨e, .word w :: rest, reads⟩ = core.run n t :=
  run_of_stepAt ((stepAt_of_decoded_word rfl hi).trans hexec)

/-- The engine steps of an operation, in a row. -/
theorem run_engineSteps {m : Nat} {e' : Engine} (h : engineSteps m e = some e') :
    core.run (m + n) ⟨e, List.replicate m .engineStep ++ rest, reads⟩ = core.run n ⟨e', rest, reads⟩ := by
  induction m generalizing e with
  | zero =>
    obtain rfl := Option.some.inj h
    rw [Nat.zero_add]
    rfl
  | succ m ih =>
    obtain ⟨e₁, hstep, hrest⟩ := Option.bind_eq_some_iff.mp h
    have hturn : stepAt (Config.desBase 0) ⟨e, .engineStep :: (List.replicate m .engineStep ++ rest), reads⟩ =
        .next ⟨e₁, List.replicate m .engineStep ++ rest, reads⟩ :=
      (stepAt_of_engineStep rfl).trans (engineTurn_of_engineStep hstep)
    rw [Nat.add_right_comm, List.replicate_succ, List.cons_append, run_of_stepAt hturn, ih hrest]

theorem run_rdDout : core.run (n + 1) ⟨e, .word (.txn 0x20000000000000000#68) :: rest, reads⟩ =
    core.run n ⟨e, rest, reads ++ [e.dout]⟩ :=
  run_word (i := .rdDout 0#64) rfl (exec_readInstr .dout 0#64 _)

section Idle
variable (hidle : e.busy = false)
include hidle

theorem run_wrKey (v : Word) : core.run (n + 1) ⟨e, .word (.txn (0x8#4 ++ v)) :: rest, reads⟩ =
    core.run n ⟨{ e with key := v, kv := false }, rest, reads⟩ :=
  run_word (decode_txn_append 0x8#4 v) (exec_wrKey_of_idle v hidle)

theorem run_wrDin (v : Word) : core.run (n + 1) ⟨e, .word (.txn (0x9#4 ++ v)) :: rest, reads⟩ =
    core.run n ⟨{ e with din := v }, rest, reads⟩ :=
  run_word (decode_txn_append 0x9#4 v) (exec_wrDin_of_idle v hidle)

end Idle

end Events

/-! ## A whole operation -/

section Operations
variable {e : Engine} (hl : e.legal = true)
include hl

theorem legal_afterKeySchedule : e.afterKeySchedule.legal = true := legal_of_sequencerLegal hl rfl ⟨rfl, rfl⟩

theorem legal_afterBlockOperation (dir : Bool) : (e.afterBlockOperation dir).legal = true :=
  legal_of_sequencerLegal hl rfl ⟨rfl, rfl⟩

variable {n : Nat} {rest : List Event} {reads : List Word} (hidle : e.busy = false) (herr : e.err = false)
include hidle herr

/-- R119: KEYSCHED and its 17 engine steps. -/
theorem run_keySchedule :
    core.run (17 + n + 1) ⟨e, .word (.cmd 1#64) :: (List.replicate 17 .engineStep ++ rest), reads⟩ =
      core.run n ⟨e.afterKeySchedule, rest, reads⟩ := by
  have hstart : exec .keysched ⟨e, List.replicate 17 .engineStep ++ rest, reads⟩ =
      .next ⟨{ e with kv := false, phase := .ksInitial, round := 0#5 }, List.replicate 17 .engineStep ++ rest, reads⟩ :=
    exec_keysched_of_idle herr hidle
  rw [run_word rfl hstart]
  exact run_engineSteps (engineSteps_keySchedule (legal_of_sequencerLegal hl rfl ⟨rfl, rfl⟩) rfl)

/-- R119: ENCRYPT or DECRYPT and its 18 engine steps. -/
theorem run_blockOperation (hkv : e.kv = true) (dir : Bool) :
    core.run (18 + n + 1)
        ⟨e, .word (.cmd (if dir then 3#64 else 2#64)) :: (List.replicate 18 .engineStep ++ rest), reads⟩ =
      core.run n ⟨e.afterBlockOperation dir, rest, reads⟩ := by
  have hdecode : decode (.cmd (if dir then 3#64 else 2#64)) = .ok (if dir then .decrypt else .encrypt) := by
    cases dir <;> rfl
  have hstart : exec (if dir then .decrypt else .encrypt) ⟨e, List.replicate 18 .engineStep ++ rest, reads⟩ =
      .next ⟨{ e with dir := dir, done := false, phase := .blkInitial, round := 0#5 },
        List.replicate 18 .engineStep ++ rest, reads⟩ := by
    cases dir with
    | false => exact exec_encrypt_of_idle herr hidle hkv
    | true => exact exec_decrypt_of_idle herr hidle hkv
  rw [run_word hdecode hstart]
  exact run_engineSteps (engineSteps_blockOperation (legal_of_sequencerLegal hl hkv ⟨rfl, rfl⟩) rfl)

end Operations

/-! ## The host's sequences -/

section Sequences
variable {e : Engine} (hl : e.legal = true) (hidle : e.busy = false) (herr : e.err = false) (reads : List Word)
include hl hidle herr

/-- R119: WR DIN, the command and its engine steps, RD DOUT. -/
theorem run_blockSequence (hkv : e.kv = true) (p : Word) (dir : Bool) :
    core.run 21 ⟨e, .word (.txn (0x9#4 ++ p)) :: .word (.cmd (if dir then 3#64 else 2#64)) ::
        (List.replicate 18 .engineStep ++ [.word (.txn 0x20000000000000000#68)]), reads⟩ =
      .next ⟨({ e with din := p } : Engine).afterBlockOperation dir, [], reads ++ [blockResult dir p e.rk]⟩ := by
  have hl' : ({ e with din := p } : Engine).legal = true := (ExecCase.loadDin p (busy_eq_false.mp hidle)).legal hl
  exact (run_wrDin hidle p).trans ((run_blockOperation (n := 1) hl' hidle herr hkv dir).trans run_rdDout)

/-- R119: WR KEY, KEYSCHED and its engine steps before that. -/
theorem run_hostSequence (k p : Word) (dir : Bool) :
    core.run 40 ⟨e, .word (.txn (0x8#4 ++ k)) :: .word (.cmd 1#64) :: (List.replicate 17 .engineStep ++
        .word (.txn (0x9#4 ++ p)) :: .word (.cmd (if dir then 3#64 else 2#64)) :: (List.replicate 18 .engineStep ++
        [.word (.txn 0x20000000000000000#68)])), reads⟩ =
      .next ⟨({ ({ e with key := k, kv := false } : Engine).afterKeySchedule with
        din := p } : Engine).afterBlockOperation dir, [], reads ++ [blockResult dir p (generateRoundKeys k)]⟩ := by
  have hl' : ({ e with key := k, kv := false } : Engine).legal = true :=
    (ExecCase.loadKey k (busy_eq_false.mp hidle)).legal hl
  exact (run_wrKey hidle k).trans ((run_keySchedule hl' hidle herr).trans
    (run_blockSequence (legal_afterKeySchedule hl') rfl herr reads rfl p dir))

/-- R97: ENCRYPT and its engine steps, RD DOUT. -/
theorem run_encryptAndRead (hkv : e.kv = true) (n : Nat) (rest : List Event) :
    core.run (n + 20) ⟨e, .word (.cmd 2#64) :: (List.replicate 18 .engineStep ++
        .word (.txn 0x20000000000000000#68) :: rest), reads⟩ =
      core.run n ⟨e.afterBlockOperation false, rest, reads ++ [encryptBlock e.din e.rk]⟩ := by
  have hcount : n + 20 = 18 + (n + 1) + 1 := by omega
  rw [hcount]
  exact (run_blockOperation hl hidle herr hkv false).trans run_rdDout

/-- R97: WR DIN, DECRYPT and its engine steps. -/
theorem run_writeAndDecrypt (hkv : e.kv = true) (c : Word) :
    core.run 20 ⟨e, .word (.txn (0x9#4 ++ c)) :: .word (.cmd 3#64) :: List.replicate 18 .engineStep, reads⟩ =
      .next ⟨({ e with din := c } : Engine).afterBlockOperation true, [], reads⟩ := by
  have hl' : ({ e with din := c } : Engine).legal = true := (ExecCase.loadDin c (busy_eq_false.mp hidle)).legal hl
  exact (run_wrDin hidle c).trans (run_blockOperation (n := 0) (rest := []) hl' hidle herr hkv true)

end Sequences

/-- Settles O34: event by event through the whole agenda. -/
theorem hostSequenceGivesCipherResult : Obligations.HostSequenceGivesCipherResult := by
  rintro ⟨e, agenda, reads⟩ k p dir hl hidle herr hagenda
  simp only [List.append_assoc, List.cons_append, List.nil_append] at hagenda
  subst hagenda
  exact ⟨_, run_hostSequence hl hidle herr reads k p dir, rfl, rfl, rfl, rfl, herr, rfl, rfl⟩

/-- Settles O35: the two runs, and decryption undoes encryption. -/
theorem hardwareRoundTrip : Obligations.HardwareRoundTrip := by
  rintro ⟨e, agenda, reads⟩ c hl hidle herr hkv hagenda
  simp only [List.append_assoc, List.cons_append, List.nil_append] at hagenda
  subst hagenda
  refine ⟨⟨_, run_encryptAndRead hl hidle herr reads hkv 0 _, rfl⟩, fun hc => ⟨_,
    (run_encryptAndRead hl hidle herr reads hkv 20 _).trans
      (run_writeAndDecrypt (legal_afterBlockOperation hl false) rfl herr _ hkv c), ?_⟩⟩
  rw [hc]
  exact decryptBlock_encryptBlock e.din e.rk

/-! ## Polling -/

/-- A waiting host's event is an engine step or an instruction that only observes. -/
theorem cases_of_waits {base : Nat} {ev : Event} (h : waits base ev = true) :
    ev = .engineStep ∨ (ev ≠ .engineStep ∧ ∃ i, interpret base ev = .execute i ∧ observes i = true) := by
  cases ev with
  | engineStep => exact .inl rfl
  | word w => exact .inr ⟨nofun, _, rfl, h⟩
  | reset => nomatch h
  | access a =>
    cases ha : accessTxn base a with
    | none =>
      rw [waits, interpret, ha] at h
      nomatch h
    | some w =>
      have hi : interpret base (.access a) = .execute (decodeTxn w) := by rw [interpret, ha]
      rw [waits, hi] at h
      exact .inr ⟨nofun, _, hi, h⟩

/-- R140: the engine's turn in a state of R34. -/
theorem engineTurn_of_legal {s : State} (hl : s.engine.legal = true) :
    engineTurn s = .next (s.withEngine ((engineStep s.engine).getD s.engine)) := by
  by_cases hidle : s.engine.phase = .idle
  · rw [engineTurn_of_idle hidle, engineStep_of_idle hidle, Option.getD_none, withEngine_self]
  · obtain ⟨e', hstep⟩ := exists_engineStep hl hidle
    rw [engineTurn_of_engineStep hstep, hstep, Option.getD_some]

theorem legal_engineTurn {e : Engine} (hl : e.legal = true) : ((engineStep e).getD e).legal = true := by
  cases hstep : engineStep e with
  | none => exact hl
  | some e' => exact (engineStep_progress hstep).1

/-- R46: the engine after a waiting host's agenda depends on the number of engine steps in it. -/
theorem run_of_waits {agenda : List Event} {e : Engine} (hl : e.legal = true) (reads : List Word)
    (hw : ∀ ev ∈ agenda, waits (Config.desBase 0) ev = true) :
    ∃ reads', core.run agenda.length ⟨e, agenda, reads⟩ =
      .next ⟨settle (agenda.count .engineStep) e, [], reads'⟩ := by
  induction agenda generalizing e reads with
  | nil => exact ⟨reads, rfl⟩
  | cons ev rest ih =>
    have hrest : ∀ ev ∈ rest, waits (Config.desBase 0) ev = true := fun x hx => hw x (List.mem_cons_of_mem _ hx)
    obtain rfl | ⟨hne, i, hi, hobs⟩ := cases_of_waits (hw ev List.mem_cons_self)
    · have hstep : stepAt (Config.desBase 0) ⟨e, .engineStep :: rest, reads⟩ =
          .next ⟨(engineStep e).getD e, rest, reads⟩ := (stepAt_of_engineStep rfl).trans (engineTurn_of_legal hl)
      rw [List.length_cons, run_of_stepAt hstep, List.count_cons_self, settle]
      exact ih (legal_engineTurn hl) reads hrest
    · obtain ⟨⟨e', rest', reads'⟩, hexec, hagenda, -, -, -, -, -, -, -, hengine⟩ :=
        everyInstructionCompletes i ⟨e, rest, reads⟩
      obtain rfl : rest' = rest := hagenda
      obtain rfl : e' = e := hengine hobs
      have hstep : stepAt (Config.desBase 0) ⟨e', ev :: rest', reads⟩ = .next ⟨e', rest', reads'⟩ := by
        rw [stepAt_of_agenda rfl, hi, perform, hexec]
      rw [List.length_cons, run_of_stepAt hstep, List.count_cons_of_ne hne]
      exact ih hl reads' hrest

section Settle
variable {e e' : Engine}

theorem settle_of_idle (hidle : e.phase = .idle) (n : Nat) : settle n e = e := by
  induction n with
  | zero => rfl
  | succ n ih => rw [settle, engineStep_of_idle hidle, Option.getD_none, ih]

theorem settle_add (m n : Nat) (e : Engine) : settle (m + n) e = settle n (settle m e) := by
  induction m generalizing e with
  | zero => rw [Nat.zero_add, settle]
  | succ m ih => rw [Nat.add_right_comm, settle, settle, ih]

theorem settle_of_engineSteps {n : Nat} (h : engineSteps n e = some e') : settle n e = e' := by
  induction n generalizing e with
  | zero => exact Option.some.inj h
  | succ n ih =>
    obtain ⟨e₁, hstep, hrest⟩ := Option.bind_eq_some_iff.mp h
    rw [settle, hstep, Option.getD_some, ih hrest]

/-- R150: eighteen turns are enough for every operation, and more change nothing. -/
theorem settle_of_le (hl : e.legal = true) : ∃ e', e'.phase = .idle ∧ ∀ n, 18 ≤ n → settle n e = e' := by
  obtain ⟨e', hsteps, hidle⟩ := idle_after_stepsLeft hl
  refine ⟨e', hidle, fun n hn => ?_⟩
  have hle := stepsLeft_le e
  have hsplit : n = e.stepsLeft + (n - e.stepsLeft) := by omega
  rw [hsplit, settle_add, settle_of_engineSteps hsteps, settle_of_idle hidle]

end Settle

/-- Settles O36: polls leave the engine alone, and eighteen turns of it finish any operation. -/
theorem pollingDoesNotChangeTheOutcome : Obligations.PollingDoesNotChangeTheOutcome := by
  rintro ⟨e, agenda, reads⟩ hl hw
  obtain ⟨reads', hrun⟩ := run_of_waits hl reads hw
  obtain ⟨e', hidle, hsettle⟩ := settle_of_le hl
  refine ⟨_, hrun, rfl, rfl, fun hcount => ?_⟩
  rw [hsettle 18 le_rfl]
  exact ⟨hsettle _ hcount, (congrArg Engine.phase (hsettle _ hcount)).trans hidle⟩

end Sys2Proof.Machine
end
